-- ==== Sys2Proof/Word.lean ====
section
/-! DEFINITION. The word types of AESCORE (00_scope.md R7, R11, R13): bytes, 32-bit words, 64-bit counters,
16-byte blocks and 18-bit Host offsets. -/

namespace Sys2Proof

/-- `byte`, 8 bits (R13). Also an element of GF(2^8) (40_gf_sbox.md R130). -/
abbrev Byte := BitVec 8

/-- `word`, 32 bits (R13). -/
abbrev Word := BitVec 32

/-- `u64`, 64 bits (R13). -/
abbrev U64 := BitVec 64

/-- A 16-byte block (R7); byte `i` is row `i mod 4`, column `i / 4` of the state matrix (10_state.md R38). -/
abbrev Block := Vector Byte 16

/-- A byte offset from AES_BASE, 18 bits (R11, 20_memory.md R70). -/
abbrev Offset := BitVec 18

end Sys2Proof
end

