-- ==== Sys2Proof/Config.lean ====
section
/-! DEFINITION. What one implementation fixes and what the spec leaves unspecified. The free values are opaque
constants with no body: no proof can see a value of one, so a claim holds whatever they are. -/

namespace Sys2Proof.Config

/-- The reference capacity of IBUF in bytes (00_scope.md R9 "The reference value used for all examples in this spec").
DESIGN CHOICE, unsafe (log 1): the MAX_MSG of the reset state only. MAX_MSG itself is the field `State.maxMsg`. -/
def refMaxMsg : Nat := 4096

/-- FREE VALUE (log 2): the byte that buffer offset `off` holds when nothing was written to it since the reset that drew
contents number `draw` (10_state.md R49, 70_reset_and_hazards.md R340, R342). -/
opaque powerOnByte (draw off : Nat) : Byte

/-- FREE VALUE (log 2): word `i` of KS after the reset that drew contents number `draw` (R49, R340, R342). -/
opaque powerOnWord (draw i : Nat) : Word

/-- FREE VALUE (log 7): draw number `n` of a Host read of an offset other than ID, CTRL and STATUS while BUSY = 1
(70_reset_and_hazards.md R351). -/
opaque busyRead (n : Nat) : Word

/-- FREE VALUE (log 9): the round-constant ROM outside entries 1 to 10; entry 0 is unspecified (10_state.md R44,
40_gf_sbox.md R137) and no rule reads any other. -/
opaque rconUnspecified (j : Nat) : Byte

/-- FREE VALUE (log 10): KS has 60 words (10_state.md R41); no rule reads word 60 or beyond. -/
opaque ksBeyond (i : Nat) : Word

end Sys2Proof.Config
end

