-- ==== Sys2Proof/Syntax.lean ====
section
/-! DEFINITION. The commands of AESCORE, one constructor per row of spec/opcode_table.json (30_encoding.md R104). The only
explicit operand is ARG8 (R102, R103). -/

namespace Sys2Proof

/-- A command. -/
inductive Instr where
  /-- NOP, 0x00 (46_control.md R293). -/
  | nop
  /-- MAKE_KEY, 0x01 (41_key_schedule.md R165). -/
  | makeKey
  /-- ENC_ECB, 0x02 (45_modes.md R252). -/
  | encEcb
  /-- DEC_ECB, 0x03 (R254). -/
  | decEcb
  /-- ENC_CBC, 0x04 (R256). -/
  | encCbc
  /-- DEC_CBC, 0x05 (R260). -/
  | decCbc
  /-- CTR_XFORM, 0x06 (R266). -/
  | ctrXform
  /-- KS_RESET, 0x07 (R270). -/
  | ksReset
  /-- KS_READ, 0x08 (R271). -/
  | ksRead
  /-- KS_NEXT, 0x09 (R272). -/
  | ksNext
  /-- CIPHER, 0x10 (43_cipher.md R214). -/
  | cipher
  /-- INV_CIPHER, 0x11 (R215). -/
  | invCipher
  /-- PAD, 0x12, with ARG8 the block size (44_padding.md R234). -/
  | pad (bs : Byte)
  /-- UNPAD_LEN, 0x13 (R235). -/
  | unpadLen
  /-- GF_MUL, 0x20 (40_gf_sbox.md R140). -/
  | gfMul
  /-- XTIME, 0x21 (R141). -/
  | xtime
  /-- SBOX, 0x22 (R142). -/
  | sbox
  /-- INV_SBOX, 0x23 (R143). -/
  | invSbox
  /-- RCON, 0x24, with ARG8 the index (R144). -/
  | rcon (j : Byte)
  /-- SUB_BYTES, 0x30 (42_round_transforms.md R190). -/
  | subBytes
  /-- INV_SUB_BYTES, 0x31 (R191). -/
  | invSubBytes
  /-- SHIFT_ROWS, 0x32 (R192). -/
  | shiftRows
  /-- INV_SHIFT_ROWS, 0x33 (R193). -/
  | invShiftRows
  /-- MIX_COLUMNS, 0x34 (R194). -/
  | mixColumns
  /-- INV_MIX_COLUMNS, 0x35 (R195). -/
  | invMixColumns
  /-- ADD_ROUND_KEY, 0x36, with ARG8 the round (R196). -/
  | addRoundKey (r : Byte)
  deriving DecidableEq, Repr

end Sys2Proof
end

