-- ==== Sys2Proof/Machine/State.lean ====
section
/-! DEFINITION. The state of AESCORE (10_state.md R20 to R49), the events the outside world puts to it, and the reset state. -/

namespace Sys2Proof.Machine

/-- The width of a Host bus access. Only `word` is supported (20_memory.md R73, R79). -/
inductive AccessSize where
  | byte
  | half
  | word
  deriving DecidableEq, Repr

/-- What happens next, one event a step (00_scope.md R5, 20_memory.md R81; log 3). -/
inductive Event where
  /-- The Engine completes the running command, if there is one (46_control.md R291). -/
  | engine
  /-- The platform asserts the hard reset (70_reset_and_hazards.md R340). -/
  | hardReset
  /-- `HostRead` (20_memory.md R71). -/
  | read (size : AccessSize) (off : Offset)
  /-- `HostWrite` (R72). -/
  | write (size : AccessSize) (off : Offset) (v : Word)
  deriving DecidableEq, Repr

/-- A byte buffer addressed by Host offset: the bytes written to it, offsets strictly rising (`Memory.wf`), and the number
of the draw that fills every offset not listed (log 2). -/
structure Memory where
  cells : List Host.Cell
  draw : Nat
  deriving DecidableEq, Repr

/-- The error codes of 60_exceptions.md R300 (their numbers are `Err.code`). -/
inductive Err where
  | nonstandardKeyLength
  | irregularDecryptLength
  | wrongSizeIv
  | paddingError
  | noKey
  | lengthOverflow
  | illegalCommand
  deriving DecidableEq, Repr

/-- The state: R20's list, the parameter MAX_MSG, and the model's own three fields. -/
structure State where
  /-- MAX_MSG, the capacity of IBUF in bytes (00_scope.md R9): a parameter, written by nothing (log 1). -/
  maxMsg : Nat
  /-- CTRL.IRQ_EN (R22). -/
  irqEn : Bool
  /-- STATUS.DONE (R23). -/
  done : Bool
  /-- STATUS.KEY_VALID (R23). -/
  keyValid : Bool
  /-- STATUS.KS_VALID (R23). -/
  ksValid : Bool
  /-- STATUS.ERR (R23). -/
  err : BitVec 4
  /-- STATUS.NR (R23). -/
  nr : BitVec 4
  /-- The latched command word of the running command (46_control.md R290); STATUS.BUSY is `running.isSome` (log 6). -/
  running : Option Word
  /-- KEY_LEN[7:0] (R25). -/
  keyLen : BitVec 8
  /-- IV_LEN[7:0] (R26). -/
  ivLen : BitVec 8
  /-- IN_LEN (R27). -/
  inLen : Word
  /-- OUT_LEN (R28). -/
  outLen : Word
  /-- NONCE_LO (R29). -/
  nonceLo : Word
  /-- NONCE_HI (R29). -/
  nonceHi : Word
  /-- KS_CTR, read as KS_CTR_LO and KS_CTR_HI (R30). -/
  ksCtr : U64
  /-- KS_IDX[3:0] (R31). -/
  ksIdx : BitVec 4
  /-- KS_NONCE, hidden (R45). -/
  ksNonce : U64
  /-- RESULT (R32). -/
  result : Word
  /-- OPA[7:0] (R33). -/
  opa : Byte
  /-- OPB[7:0] (R33). -/
  opb : Byte
  /-- KEY (R35). -/
  key : Vector Byte 32
  /-- IV (R36). -/
  iv : Block
  /-- The buffer STATE (R37). -/
  block : Block
  /-- IBUF (R39). -/
  ibuf : Memory
  /-- OBUF (R40). -/
  obuf : Memory
  /-- KS (R41). -/
  ks : Vector Word 60
  /-- The model's own: the events still to come, oldest first (log 3, log 4). -/
  pending : List Event
  /-- The model's own: the value the last Host read returned (log 4). -/
  readData : Word
  /-- The model's own: the number of the next draw of free values (log 4). -/
  draws : Nat
  deriving DecidableEq, Repr

/-- How the machine stops. Both are faults of a Host access; no command raises one. -/
inductive Fault where
  /-- Raised by a Host access that is not one 32-bit word at a 4-byte-aligned offset (20_memory.md R73, I17). Safe: the
  spec's own model treatment. -/
  | busAccessError
  /-- Raised by a Host write to an offset other than CTRL and STATUS while BUSY = 1 (70_reset_and_hazards.md R350, I15).
  Safe: the spec's own model treatment. -/
  | hostWriteWhileBusy
  deriving DecidableEq, Repr

/-- What the model refuses. -/
inductive Refusal where
  /-- Raised by an arm of `exec` whose instruction has no meaning yet. Safe. No arm does. -/
  | notModelled (mnemonic : String)
  deriving DecidableEq, Repr

/-- The answer of a command or a step. -/
abbrev Result := Host.Outcome State Fault Refusal

/-- The state after a hard reset that draws contents number 0 (10_state.md R48, R49): every register at its reset value,
nothing running, every buffer and KS a free value (log 2), MAX_MSG the reference value (log 1), and the model's own fields
empty (log 4). -/
def State.reset : State where
  maxMsg := Config.refMaxMsg
  irqEn := false
  done := false
  keyValid := false
  ksValid := false
  err := 0
  nr := 0
  running := none
  keyLen := 0
  ivLen := 0
  inLen := 0
  outLen := 0
  nonceLo := 0
  nonceHi := 0
  ksCtr := 0
  ksIdx := 0
  ksNonce := 0
  result := 0
  opa := 0
  opb := 0
  key := Vector.ofFn fun i => Config.powerOnByte 0 (0x40 + i)
  iv := Vector.ofFn fun i => Config.powerOnByte 0 (0x60 + i)
  block := Vector.ofFn fun i => Config.powerOnByte 0 (0x70 + i)
  ibuf := { cells := [], draw := 0 }
  obuf := { cells := [], draw := 0 }
  ks := Vector.ofFn fun i => Config.powerOnWord 0 i
  pending := []
  readData := 0
  draws := 1

end Sys2Proof.Machine
end

