-- ==== Sys2Proof/Machine/Flags.lean ====
section
/-! DEFINITION. The STATUS and CTRL registers as words (10_state.md R22, R23), the error code numbers (60_exceptions.md R300)
and the interrupt output (R320). -/

namespace Sys2Proof.Machine

/-- The number of an error (R300); 0 is success. -/
def Err.code : Err → BitVec 4
  | .nonstandardKeyLength => 1
  | .irregularDecryptLength => 2
  | .wrongSizeIv => 3
  | .paddingError => 4
  | .noKey => 5
  | .lengthOverflow => 6
  | .illegalCommand => 7

/-- STATUS.BUSY (R23): a command is running. -/
def State.busy (s : State) : Bool := s.running.isSome

/-- One flag at bit `k` of a word. -/
def flagBit (b : Bool) (k : Nat) : Word := (BitVec.ofBool b).setWidth 32 <<< k

/-- STATUS as the Host reads it (R23): BUSY [0], DONE [1], KEY_VALID [2], KS_VALID [3], ERR [7:4], NR [11:8], rest 0. -/
def statusWord (s : State) : Word :=
  flagBit s.busy 0 ||| flagBit s.done 1 ||| flagBit s.keyValid 2 ||| flagBit s.ksValid 3
    ||| (s.err.setWidth 32 <<< 4) ||| (s.nr.setWidth 32 <<< 8)

/-- CTRL as the Host reads it (R22): IRQ_EN [0]; SRST and the reserved bits read 0. -/
def ctrlWord (s : State) : Word := flagBit s.irqEn 0

/-- The interrupt output, `IRQ = CTRL.IRQ_EN & STATUS.DONE` (R320). -/
def State.irq (s : State) : Bool := s.irqEn && s.done

end Sys2Proof.Machine
end

