-- ==== Sys2Proof/Machine/Ops.lean ====
section
/-! DEFINITION. The shared operations: byte lanes, the byte buffers IBUF and OBUF, KS, completion and failure of a command
(46_control.md R291, 60_exceptions.md R312), command start (R290) and the resets (70_reset_and_hazards.md R340 to R342). -/

namespace Sys2Proof.Machine

/-! ### Byte order -/

/-- Byte `j` of a word in little-endian lane order, bits `[8j+7 : 8j]` (20_memory.md R76). -/
def lane (w : Word) (j : Nat) : Byte := w.extractLsb' (8 * j) 8

/-- The word of four bytes in little-endian lane order (R76). -/
def wordOfLanes (b0 b1 b2 b3 : Byte) : Word :=
  b0.setWidth 32 ||| b1.setWidth 32 <<< 8 ||| b2.setWidth 32 <<< 16 ||| b3.setWidth 32 <<< 24

/-- Byte `j` of a word, most significant first, bits `[31-8j : 24-8j]` (41_key_schedule.md R161, 42_round_transforms.md R187). -/
def byteBE (w : Word) (j : Nat) : Byte := w.extractLsb' (24 - 8 * j) 8

/-- The word of four bytes, most significant first (R161). -/
def wordBE (b0 b1 b2 b3 : Byte) : Word := wordOfLanes b3 b2 b1 b0

/-! ### Byte buffers IBUF and OBUF -/

/-- Host offset of IBUF's byte 0 (20_memory.md R74). -/
def ibufBase : Nat := 0x10000

/-- Host offset of OBUF's byte 0 (R74). -/
def obufBase : Nat := 0x20000

/-- The byte listed at an offset, if one is. -/
def lookup : List Host.Cell → Nat → Option Byte
  | [], _ => none
  | (a, b) :: cs, k => if a = k then some b else lookup cs k

/-- List a byte at an offset, in place. -/
def insertCell : List Host.Cell → Nat → Byte → List Host.Cell
  | [], k, v => [(k, v)]
  | (a, b) :: cs, k, v =>
    if k < a then (k, v) :: (a, b) :: cs
    else if a = k then (k, v) :: cs
    else (a, b) :: insertCell cs k v

/-- The canonical form: offsets strictly rising, all of them in the buffer `[lo, hi)`. An offset not listed reads as no
listed byte at all but as a free value (log 2). -/
abbrev Memory.wf (lo hi : Nat) (m : Memory) : Prop :=
  m.cells.Pairwise (fun c d => c.1 < d.1) ∧ ∀ c ∈ m.cells, lo ≤ c.1 ∧ c.1 < hi

/-- Read one byte: the listed one, or the free value that stands there since the draw (10_state.md R49). -/
def Memory.read (m : Memory) (off : Nat) : Byte := (lookup m.cells off).getD (Config.powerOnByte m.draw off)

/-- Write one byte. -/
def Memory.write (m : Memory) (off : Nat) (v : Byte) : Memory := { m with cells := insertCell m.cells off v }

/-- The bytes as cells at `base`, `base + 1`, … -/
def cellsFrom : Nat → List Byte → List Host.Cell
  | _, [] => []
  | base, b :: bs => (base, b) :: cellsFrom (base + 1) bs

/-- Write a byte sequence at `base`, `base + 1`, …; every other byte is kept. -/
def Memory.writeSeq (m : Memory) (base : Nat) (bs : List Byte) : Memory :=
  { m with
    cells := (m.cells.filter fun c => c.1 < base) ++ (cellsFrom base bs ++
      m.cells.filter fun c => base + bs.length ≤ c.1) }

/-- `IBUF[i]`. -/
def State.ibufByte (s : State) (i : Nat) : Byte := s.ibuf.read (ibufBase + i)

/-- `OBUF[i]`. -/
def State.obufByte (s : State) (i : Nat) : Byte := s.obuf.read (obufBase + i)

/-- A command's output: `OBUF[0..len(out)) <- out; OUT_LEN <- len(out)` (10_state.md R28, R40). -/
def State.output (s : State) (out : List Byte) : State :=
  { s with obuf := s.obuf.writeSeq obufBase out, outLen := BitVec.ofNat 32 out.length }

/-! ### Key-schedule RAM -/

/-- `KS[i]` (10_state.md R41); beyond word 59, which no rule reads, a free value (log 10). -/
def ksWord (ks : Vector Word 60) (i : Nat) : Word := (ks[i]?).getD (Config.ksBeyond i)

/-! ### Start, completion and failure of a command -/

/-- Command start (46_control.md R290): BUSY <- 1, DONE <- 0, the word is latched; ERR is kept. -/
def State.start (s : State) (w : Word) : State := { s with running := some w, done := false }

/-- The end of every command (R291): BUSY <- 0, DONE <- 1, and the latched word is gone (10_state.md R46). -/
def State.finish (s : State) : State := { s with running := none, done := true }

/-- `complete` (R292): STATUS.ERR <- 0, and the command ends. -/
def succeed (s : State) : Result := .next { s.finish with err := 0 }

/-- `raise E` (R292, 60_exceptions.md R312): STATUS.ERR <- E, OUT_LEN <- 0, RESULT <- 0, and the command ends. -/
def raiseError (e : Err) (s : State) : Result := .next { s.finish with err := e.code, outLen := 0, result := 0 }

/-! ### Resets -/

/-- Every register takes its reset value (10_state.md R48), and no command runs. -/
def State.resetRegisters (s : State) : State :=
  { s with
    irqEn := false, done := false, keyValid := false, ksValid := false, err := 0, nr := 0, running := none
    keyLen := 0, ivLen := 0, inLen := 0, outLen := 0, nonceLo := 0, nonceHi := 0
    ksCtr := 0, ksIdx := 0, ksNonce := 0, result := 0, opa := 0, opb := 0 }

/-- STATE, OBUF and KS become fresh free values (70_reset_and_hazards.md R342). -/
def State.scrambleOutputs (s : State) : State :=
  { s with
    block := Vector.ofFn fun i => Config.powerOnByte s.draws (0x70 + i)
    obuf := { cells := [], draw := s.draws }
    ks := Vector.ofFn fun i => Config.powerOnWord s.draws i
    draws := s.draws + 1 }

/-- Soft reset (R341; while BUSY = 1, R342). -/
def State.softReset (s : State) : State :=
  if s.busy then s.resetRegisters.scrambleOutputs else s.resetRegisters

/-- Hard reset (R340): the registers as R48, and KEY, IV, STATE, IBUF, OBUF and KS all fresh free values (R49). -/
def State.hardReset (s : State) : State :=
  { s.resetRegisters with
    key := Vector.ofFn fun i => Config.powerOnByte s.draws (0x40 + i)
    iv := Vector.ofFn fun i => Config.powerOnByte s.draws (0x60 + i)
    block := Vector.ofFn fun i => Config.powerOnByte s.draws (0x70 + i)
    ibuf := { cells := [], draw := s.draws }
    obuf := { cells := [], draw := s.draws }
    ks := Vector.ofFn fun i => Config.powerOnWord s.draws i
    draws := s.draws + 1 }

end Sys2Proof.Machine
end

