-- ==== Sys2Proof/Machine/Operands.lean ====
section
/-! DEFINITION. The operands of the commands (30_encoding.md R102, R103): ARG8, the message in IBUF, the nonce. -/

namespace Sys2Proof.Machine

/-- ARG8 as an unsigned number, zero-extended (R102). -/
def argNat (arg : Byte) : Nat := arg.toNat

/-- IN_LEN as a length (10_state.md R27). -/
def State.inCount (s : State) : Nat := s.inLen.toNat

/-- The input message `IBUF[0..IN_LEN)` (R27, R39). -/
def State.message (s : State) : List Byte := (List.range s.inCount).map s.ibufByte

/-- IN_LEN is greater than MAX_MSG: the cause of LengthOverflow (60_exceptions.md R306). -/
def State.overlong (s : State) : Bool := s.maxMsg < s.inCount

/-- `NONCE_HI || NONCE_LO` as a 64-bit number (10_state.md R29). -/
def State.nonce (s : State) : U64 := s.nonceHi ++ s.nonceLo

/-- `zext_32` of a byte (00_scope.md R13). -/
def zext (b : Byte) : Word := b.setWidth 32

/-- Write RESULT (10_state.md R32). -/
def State.setResult (s : State) (v : Word) : State := { s with result := v }

/-- Write the buffer STATE (R37). -/
def State.setBlock (s : State) (b : Block) : State := { s with block := b }

end Sys2Proof.Machine
end

