-- ==== Sys2Proof/Machine/Bus.lean ====
section
/-! DEFINITION. The Host bus: the address map (20_memory.md R74), what one word read returns and one word write does
(10_state.md R21 to R41, R71, R72, R76), the bus error (R73) and the BUSY hazards (70_reset_and_hazards.md R350, R351). -/

namespace Sys2Proof.Machine

/-- The registers of 10_state.md's register map. -/
inductive Reg where
  | id | ctrl | status | cmd | keyLen | ivLen | inLen | outLen
  | nonceLo | nonceHi | ksCtrLo | ksCtrHi | ksIdx | result | opa | opb
  deriving DecidableEq, Repr

/-- The rows of the address map (R74); a window row holds the byte offset within its buffer, KSW the word number. -/
inductive Region where
  | reg (r : Reg)
  | keyWin (k : Nat)
  | ivWin (k : Nat)
  | blockWin (k : Nat)
  | ksw (i : Nat)
  | ibufWin (k : Nat)
  | obufWin (k : Nat)
  | reserved
  deriving DecidableEq, Repr

/-- The register at word `n` of the register block (register map of 10_state.md), `n` below 16. -/
def regAt (n : Nat) : Reg :=
  match n with
  | 0 => .id
  | 1 => .ctrl
  | 2 => .status
  | 3 => .cmd
  | 4 => .keyLen
  | 5 => .ivLen
  | 6 => .inLen
  | 7 => .outLen
  | 8 => .nonceLo
  | 9 => .nonceHi
  | 10 => .ksCtrLo
  | 11 => .ksCtrHi
  | 12 => .ksIdx
  | 13 => .result
  | 14 => .opa
  | _ => .opb

/-- The row of the address map an offset is in: every offset is in exactly one (R74). -/
def regionOf (off : Offset) : Region :=
  let n := off.toNat
  if n < 0x40 then .reg (regAt (n / 4))
  else if n < 0x60 then .keyWin (n - 0x40)
  else if n < 0x70 then .ivWin (n - 0x60)
  else if n < 0x80 then .blockWin (n - 0x70)
  else if n < 0x100 then .reserved
  else if n < 0x1F0 then .ksw ((n - 0x100) / 4)
  else if n < 0x10000 then .reserved
  else if n < 0x20000 then .ibufWin (n - 0x10000)
  else if n < 0x30000 then .obufWin (n - 0x20000)
  else .reserved

/-! ### Reads -/

/-- What a register reads as (R21 to R33). -/
def readReg (s : State) (r : Reg) : Word :=
  match r with
  | .id => 0x41455331
  | .ctrl => ctrlWord s
  | .status => statusWord s
  | .cmd => 0
  | .keyLen => s.keyLen.setWidth 32
  | .ivLen => s.ivLen.setWidth 32
  | .inLen => s.inLen
  | .outLen => s.outLen
  | .nonceLo => s.nonceLo
  | .nonceHi => s.nonceHi
  | .ksCtrLo => s.ksCtr.extractLsb' 0 32
  | .ksCtrHi => s.ksCtr.extractLsb' 32 32
  | .ksIdx => s.ksIdx.setWidth 32
  | .result => s.result
  | .opa => s.opa.setWidth 32
  | .opb => s.opb.setWidth 32

/-- The word of four window bytes from `k` on, in lane order (R76). -/
def lanesFrom (byteOf : Nat → Byte) (k : Nat) : Word :=
  wordOfLanes (byteOf k) (byteOf (k + 1)) (byteOf (k + 2)) (byteOf (k + 3))

/-- Byte `k` of a small buffer; inside its window every index is one of the buffer's (log 18). -/
def smallByte {n : Nat} (v : Vector Byte n) (k : Nat) : Byte := (v[k]?).getD 0

/-- Byte `k` of the IBUF window: the bytes at and above MAX_MSG read 0 (R39). -/
def ibufWinByte (s : State) (k : Nat) : Byte := if k < s.maxMsg then s.ibufByte k else 0

/-- Byte `k` of the OBUF window: the bytes at and above MAX_MSG + 16 read 0 (R40). -/
def obufWinByte (s : State) (k : Nat) : Byte := if k < s.maxMsg + 16 then s.obufByte k else 0

/-- KSW word `i`: `KS[i]` while a key is valid and the schedule holds word `i`, and 0 otherwise (R41). -/
def kswWord (s : State) (i : Nat) : Word := if s.keyValid ∧ i < 4 * (s.nr.toNat + 1) then ksWord s.ks i else 0

/-- `HostRead(off)` of an aligned word (R71): the value only, no effect. -/
def hostRead (s : State) (off : Offset) : Word :=
  match regionOf off with
  | .reg r => readReg s r
  | .keyWin k => lanesFrom (smallByte s.key) k
  | .ivWin k => lanesFrom (smallByte s.iv) k
  | .blockWin k => lanesFrom (smallByte s.block) k
  | .ksw i => kswWord s i
  | .ibufWin k => lanesFrom (ibufWinByte s) k
  | .obufWin k => lanesFrom (obufWinByte s) k
  | .reserved => 0

/-! ### Writes -/

/-- A write to CTRL (R22): bit 1 is the soft reset, which leaves IRQ_EN at 0; otherwise IRQ_EN takes bit 0. -/
def writeCtrl (s : State) (v : Word) : State := if v.getLsbD 1 then s.softReset else { s with irqEn := v.getLsbD 0 }

/-- A write to STATUS (R23): bit 1 clears DONE, nothing else has an effect. -/
def writeStatus (s : State) (v : Word) : State := if v.getLsbD 1 then { s with done := false } else s

/-- A write to a register (R21 to R33); read-only registers ignore it, and so do reserved bits. -/
def writeReg (s : State) (r : Reg) (v : Word) : State :=
  match r with
  | .ctrl => writeCtrl s v
  | .status => writeStatus s v
  | .cmd => s.start v
  | .keyLen => { s with keyLen := lane v 0 }
  | .ivLen => { s with ivLen := lane v 0 }
  | .inLen => { s with inLen := v }
  | .nonceLo => { s with nonceLo := v }
  | .nonceHi => { s with nonceHi := v }
  | .opa => { s with opa := lane v 0 }
  | .opb => { s with opb := lane v 0 }
  | .id | .outLen | .ksCtrLo | .ksCtrHi | .ksIdx | .result => s

/-- Write the four lanes of a word into a small buffer (R76). -/
def writeLanes {n : Nat} (b : Vector Byte n) (k : Nat) (v : Word) : Vector Byte n :=
  (((b.setIfInBounds k (lane v 0)).setIfInBounds (k + 1) (lane v 1)).setIfInBounds (k + 2) (lane v 2)).setIfInBounds
    (k + 3) (lane v 3)

/-- Write one byte of a large buffer's window; a byte at or above `cap` is ignored (R39, R40). -/
def writeWinByte (base cap : Nat) (m : Memory) (k : Nat) (b : Byte) : Memory :=
  if k < cap then m.write (base + k) b else m

/-- Write the four lanes of a word into a large buffer (R76). -/
def writeWin (base cap : Nat) (m : Memory) (k : Nat) (v : Word) : Memory :=
  writeWinByte base cap
    (writeWinByte base cap (writeWinByte base cap (writeWinByte base cap m k (lane v 0)) (k + 1) (lane v 1)) (k + 2)
      (lane v 2)) (k + 3) (lane v 3)

/-- `HostWrite(off, v)` of an aligned word (R72). -/
def hostWrite (s : State) (off : Offset) (v : Word) : State :=
  match regionOf off with
  | .reg r => writeReg s r v
  | .keyWin k => { s with key := writeLanes s.key k v }
  | .ivWin k => { s with iv := writeLanes s.iv k v }
  | .blockWin k => { s with block := writeLanes s.block k v }
  | .ibufWin k => { s with ibuf := writeWin ibufBase s.maxMsg s.ibuf k v }
  | .obufWin k => { s with obuf := writeWin obufBase (s.maxMsg + 16) s.obuf k v }
  | .ksw _ | .reserved => s

/-! ### Transactions -/

/-- The one supported access: a 32-bit word at a 4-byte-aligned offset (R71 to R73). -/
def legalAccess (size : AccessSize) (off : Offset) : Bool := size == .word && off.toNat % 4 == 0

/-- The offsets whose reads are defined while BUSY = 1: ID, CTRL and STATUS (R351). -/
def readableWhileBusy (off : Offset) : Bool := off == 0x000 || off == 0x004 || off == 0x008

/-- The offsets that may be written while BUSY = 1: CTRL and STATUS (R350). -/
def writableWhileBusy (off : Offset) : Bool := off == 0x004 || off == 0x008

/-- One Host read transaction (R71, R73, R351). -/
def busRead (size : AccessSize) (off : Offset) (s : State) : Result :=
  if !legalAccess size off then .fault .busAccessError
  else if s.busy && !readableWhileBusy off then
    .next { s with readData := Config.busyRead s.draws, draws := s.draws + 1 }
  else .next { s with readData := hostRead s off }

/-- One Host write transaction (R72, R73, R350). -/
def busWrite (size : AccessSize) (off : Offset) (v : Word) (s : State) : Result :=
  if !legalAccess size off then .fault .busAccessError
  else if s.busy && !writableWhileBusy off then .fault .hostWriteWhileBusy
  else .next (hostWrite s off v)

end Sys2Proof.Machine
end

