-- ==== Sys2Proof/WellFormed.lean ====
section
/-! DEFINITION. Which commands the decoder may give: the legal values of ARG8 (30_encoding.md R102, R106). The round of
ADD_ROUND_KEY is checked at execution, so every value of it is well formed here. -/

namespace Sys2Proof

/-- The operand of the command is one R106 accepts: PAD 1 to 255, RCON 1 to 10, ADD_ROUND_KEY any. -/
def Instr.wellFormed : Instr → Bool
  | .pad bs => bs != 0
  | .rcon j => 1 ≤ j.toNat && j.toNat ≤ 10
  | .addRoundKey _ => true
  | .nop | .makeKey | .encEcb | .decEcb | .encCbc | .decCbc | .ctrXform | .ksReset | .ksRead | .ksNext => true
  | .cipher | .invCipher | .unpadLen | .gfMul | .xtime | .sbox | .invSbox => true
  | .subBytes | .invSubBytes | .shiftRows | .invShiftRows | .mixColumns | .invMixColumns => true

/-- MAX_MSG is a value 00_scope.md R9 allows: a multiple of 16 with `16 <= MAX_MSG <= 65520`. -/
def legalMaxMsg (m : Nat) : Bool := m % 16 == 0 && 16 ≤ m && m ≤ 65520

end Sys2Proof
end

