-- ==== Sys2Proof/Decode.lean ====
section
/-! DEFINITION. Decoding a command word (30_encoding.md R100, R106), total and rejecting by name, and after it the encoder
(R100, R104). -/

namespace Sys2Proof

/-- Why R106 answers Illegal. -/
inductive DecodeError where
  /-- RSVD, bits [31:16], is not 0. -/
  | reservedBits
  /-- OPCODE is not in R104's table. -/
  | unknownOpcode
  /-- ARG8 is outside the command's legal values (R102). -/
  | badArgument
  deriving DecidableEq, Repr

/-- OPCODE, bits [7:0] (R100). -/
def opcodeField (w : Word) : Byte := w.extractLsb' 0 8

/-- ARG8, bits [15:8] (R100). -/
def argField (w : Word) : Byte := w.extractLsb' 8 8

/-- RSVD, bits [31:16] (R100). -/
def rsvdField (w : Word) : BitVec 16 := w.extractLsb' 16 16

/-- The row of R104's table at an opcode, with ARG8 put in where the command takes one. -/
def rowAt (opc : Nat) (arg : Byte) : Option Instr :=
  match opc with
  | 0x00 => some .nop
  | 0x01 => some .makeKey
  | 0x02 => some .encEcb
  | 0x03 => some .decEcb
  | 0x04 => some .encCbc
  | 0x05 => some .decCbc
  | 0x06 => some .ctrXform
  | 0x07 => some .ksReset
  | 0x08 => some .ksRead
  | 0x09 => some .ksNext
  | 0x10 => some .cipher
  | 0x11 => some .invCipher
  | 0x12 => some (.pad arg)
  | 0x13 => some .unpadLen
  | 0x20 => some .gfMul
  | 0x21 => some .xtime
  | 0x22 => some .sbox
  | 0x23 => some .invSbox
  | 0x24 => some (.rcon arg)
  | 0x30 => some .subBytes
  | 0x31 => some .invSubBytes
  | 0x32 => some .shiftRows
  | 0x33 => some .invShiftRows
  | 0x34 => some .mixColumns
  | 0x35 => some .invMixColumns
  | 0x36 => some (.addRoundKey arg)
  | _ => none

/-- The legal values of ARG8 for the row at an opcode (R102, R106): PAD takes 1 to 255, RCON 1 to 10, ADD_ROUND_KEY any
value at decode, and every other command only 0. -/
def argLegal (opc : Nat) (arg : Byte) : Bool :=
  match opc with
  | 0x12 => arg != 0
  | 0x24 => 1 ≤ arg.toNat && arg.toNat ≤ 10
  | 0x36 => true
  | _ => arg == 0

/-- R106, in its order. -/
def decode (w : Word) : Except DecodeError Instr :=
  if rsvdField w ≠ 0 then .error .reservedBits
  else
    match rowAt (opcodeField w).toNat (argField w) with
    | none => .error .unknownOpcode
    | some i => if argLegal (opcodeField w).toNat (argField w) then .ok i else .error .badArgument

/-- The command the decoder reads from an opcode-table word (bit 0 the least significant bit of the one 32-bit word); bits
at and above `nbits` are 0. -/
def decodeTableWord (nbits w : Nat) : Option Instr :=
  match decode (BitVec.ofNat 32 (w % 2 ^ nbits)) with
  | .ok i => some i
  | .error _ => none

/-- OPCODE of a command (R104). -/
def Instr.opcode : Instr → Byte
  | .nop => 0x00
  | .makeKey => 0x01
  | .encEcb => 0x02
  | .decEcb => 0x03
  | .encCbc => 0x04
  | .decCbc => 0x05
  | .ctrXform => 0x06
  | .ksReset => 0x07
  | .ksRead => 0x08
  | .ksNext => 0x09
  | .cipher => 0x10
  | .invCipher => 0x11
  | .pad _ => 0x12
  | .unpadLen => 0x13
  | .gfMul => 0x20
  | .xtime => 0x21
  | .sbox => 0x22
  | .invSbox => 0x23
  | .rcon _ => 0x24
  | .subBytes => 0x30
  | .invSubBytes => 0x31
  | .shiftRows => 0x32
  | .invShiftRows => 0x33
  | .mixColumns => 0x34
  | .invMixColumns => 0x35
  | .addRoundKey _ => 0x36

/-- ARG8 of a command; 0 where it takes none (R102). -/
def Instr.arg8 : Instr → Byte
  | .pad bs => bs
  | .rcon j => j
  | .addRoundKey r => r
  | .nop | .makeKey | .encEcb | .decEcb | .encCbc | .decCbc | .ctrXform | .ksReset | .ksRead | .ksNext => 0
  | .cipher | .invCipher | .unpadLen | .gfMul | .xtime | .sbox | .invSbox => 0
  | .subBytes | .invSubBytes | .shiftRows | .invShiftRows | .mixColumns | .invMixColumns => 0

/-- The command word of a command: `OPCODE | ARG8 << 8` with RSVD = 0 (R100, R107). -/
def encode (i : Instr) : Word := i.opcode.setWidth 32 ||| (i.arg8.setWidth 32 <<< 8)

end Sys2Proof
end

