-- ==== Sys2Proof/Machine/Field.lean ====
section
/-! DEFINITION. GF(2^8) (40_gf_sbox.md R130 to R132) and the five commands of that file (R140 to R144). -/

namespace Sys2Proof.Machine

/-- Multiplication by {02} (R131). -/
def xtime (a : Byte) : Byte := if a.getLsbD 7 then (a <<< 1) ^^^ 0x1b else a <<< 1

/-- One round of the multiplier's loop (R132), for bit `k` of `b`, on the pair of accumulator and doubled operand. -/
def gfMulStep (b : Byte) (p : Byte × Byte) (k : Nat) : Byte × Byte :=
  (if b.getLsbD k then p.1 ^^^ p.2 else p.1, xtime p.2)

/-- The field product (R132). -/
def gfMul (a b : Byte) : Byte := ((List.range 8).foldl (gfMulStep b) (0, a)).1

/-- GF_MUL (R140). -/
def execGfMul (s : State) : Result := succeed (s.setResult (zext (gfMul s.opa s.opb)))

/-- XTIME (R141). -/
def execXtime (s : State) : Result := succeed (s.setResult (zext (xtime s.opa)))

/-- SBOX (R142). -/
def execSbox (s : State) : Result := succeed (s.setResult (zext (sbox s.opa)))

/-- INV_SBOX (R143). -/
def execInvSbox (s : State) : Result := succeed (s.setResult (zext (invSbox s.opa)))

/-- RCON (R144). An index outside 1 to 10 is IllegalCommand; the decoder refuses it already (log 15). -/
def execRcon (j : Byte) (s : State) : Result :=
  if argNat j = 0 ∨ 10 < argNat j then raiseError .illegalCommand s
  else succeed (s.setResult (zext (rcon (argNat j))))

end Sys2Proof.Machine
end

