-- ==== Sys2Proof/Machine/Rounds.lean ====
section
/-! DEFINITION. The round transforms (42_round_transforms.md R180 to R187) and the seven commands on STATE (R190 to R196). -/

namespace Sys2Proof.Machine

/-- SubBytes (R181). -/
def subBytes (s : Block) : Block := Vector.ofFn fun i => sbox s[i]

/-- InvSubBytes (R182). -/
def invSubBytes (s : Block) : Block := Vector.ofFn fun i => invSbox s[i]

/-- The block byte that row `i mod 4`, column `(i / 4 + d) mod 4` holds (10_state.md R38). -/
def rowRotated (s : Block) (i : Fin 16) (d : Nat) : Byte :=
  s[i.val % 4 + 4 * ((i.val / 4 + d) % 4)]'(by omega)

/-- ShiftRows: row `r` rotates left by `r` (R183). -/
def shiftRows (s : Block) : Block := Vector.ofFn fun i => rowRotated s i (i.val % 4)

/-- InvShiftRows: row `r` rotates right by `r`, which is left by `4 - r` (R184). -/
def invShiftRows (s : Block) : Block := Vector.ofFn fun i => rowRotated s i (4 - i.val % 4)

/-- Column `c` of a block from row 0 to row 3 (10_state.md R38). -/
def column (s : Block) (c : Fin 4) : Vector Byte 4 := Vector.ofFn fun r => s[r.val + 4 * c.val]'(by omega)

/-- The block with the given columns. -/
def ofColumns (f : Fin 4 → Vector Byte 4) : Block :=
  Vector.ofFn fun i => (f ⟨i.val / 4, by omega⟩)[i.val % 4]'(by omega)

/-- One column of MixColumns (R185). -/
def mixColumn (a : Vector Byte 4) : Vector Byte 4 :=
  #v[gfMul 0x02 a[0] ^^^ gfMul 0x03 a[1] ^^^ a[2] ^^^ a[3],
     a[0] ^^^ gfMul 0x02 a[1] ^^^ gfMul 0x03 a[2] ^^^ a[3],
     a[0] ^^^ a[1] ^^^ gfMul 0x02 a[2] ^^^ gfMul 0x03 a[3],
     gfMul 0x03 a[0] ^^^ a[1] ^^^ a[2] ^^^ gfMul 0x02 a[3]]

/-- One column of InvMixColumns (R186). -/
def invMixColumn (a : Vector Byte 4) : Vector Byte 4 :=
  #v[gfMul 0x0e a[0] ^^^ gfMul 0x0b a[1] ^^^ gfMul 0x0d a[2] ^^^ gfMul 0x09 a[3],
     gfMul 0x09 a[0] ^^^ gfMul 0x0e a[1] ^^^ gfMul 0x0b a[2] ^^^ gfMul 0x0d a[3],
     gfMul 0x0d a[0] ^^^ gfMul 0x09 a[1] ^^^ gfMul 0x0e a[2] ^^^ gfMul 0x0b a[3],
     gfMul 0x0b a[0] ^^^ gfMul 0x0d a[1] ^^^ gfMul 0x09 a[2] ^^^ gfMul 0x0e a[3]]

/-- MixColumns (R185). -/
def mixColumns (s : Block) : Block := ofColumns fun c => mixColumn (column s c)

/-- InvMixColumns (R186). -/
def invMixColumns (s : Block) : Block := ofColumns fun c => invMixColumn (column s c)

/-- AddRoundKey with round key `r`, the words `KS[4r .. 4r+4)` (R187, 41_key_schedule.md R167). -/
def addRoundKey (ks : Vector Word 60) (r : Nat) (s : Block) : Block :=
  Vector.ofFn fun i => s[i] ^^^ byteBE (ksWord ks (4 * r + i.val / 4)) (i.val % 4)

/-- SUB_BYTES (R190). -/
def execSubBytes (s : State) : Result := succeed (s.setBlock (subBytes s.block))

/-- INV_SUB_BYTES (R191). -/
def execInvSubBytes (s : State) : Result := succeed (s.setBlock (invSubBytes s.block))

/-- SHIFT_ROWS (R192). -/
def execShiftRows (s : State) : Result := succeed (s.setBlock (shiftRows s.block))

/-- INV_SHIFT_ROWS (R193). -/
def execInvShiftRows (s : State) : Result := succeed (s.setBlock (invShiftRows s.block))

/-- MIX_COLUMNS (R194). -/
def execMixColumns (s : State) : Result := succeed (s.setBlock (mixColumns s.block))

/-- INV_MIX_COLUMNS (R195). -/
def execInvMixColumns (s : State) : Result := succeed (s.setBlock (invMixColumns s.block))

/-- ADD_ROUND_KEY (R196). -/
def execAddRoundKey (r : Byte) (s : State) : Result :=
  if !s.keyValid then raiseError .noKey s
  else if s.nr.toNat < argNat r then raiseError .illegalCommand s
  else succeed (s.setBlock (addRoundKey s.ks (argNat r) s.block))

end Sys2Proof.Machine
end

