-- ==== Sys2Proof/Machine/Cipher.lean ====
section
/-! DEFINITION. The Cipher / InvCipher orchestrator (43_cipher.md R210 to R213) and its commands (R214, R215). -/

namespace Sys2Proof.Machine

/-- A middle round of Cipher (R210). -/
def cipherRound (ks : Vector Word 60) (s : Block) (round : Nat) : Block :=
  addRoundKey ks round (mixColumns (shiftRows (subBytes s)))

/-- A middle round of InvCipher (R212): AddRoundKey before InvMixColumns. -/
def invCipherRound (ks : Vector Word 60) (s : Block) (round : Nat) : Block :=
  invMixColumns (addRoundKey ks round (invSubBytes (invShiftRows s)))

/-- The rounds `1 .. Nr-1` in order. -/
def middleRounds (nr : Nat) : List Nat := List.range' 1 (nr - 1)

/-- `Cipher(block, KS, Nr)` (R210). -/
def cipher (ks : Vector Word 60) (nr : Nat) (b : Block) : Block :=
  addRoundKey ks nr (shiftRows (subBytes ((middleRounds nr).foldl (cipherRound ks) (addRoundKey ks 0 b))))

/-- `InvCipher(block, KS, Nr)` (R212). -/
def invCipher (ks : Vector Word 60) (nr : Nat) (b : Block) : Block :=
  addRoundKey ks 0 (invSubBytes (invShiftRows ((middleRounds nr).reverse.foldl (invCipherRound ks) (addRoundKey ks nr b))))

/-- Cipher with the current KS and Nr = STATUS.NR (R211). -/
def State.encipher (s : State) (b : Block) : Block := cipher s.ks s.nr.toNat b

/-- InvCipher with the current KS and Nr = STATUS.NR (R211). -/
def State.decipher (s : State) (b : Block) : Block := invCipher s.ks s.nr.toNat b

/-- CIPHER (R214). -/
def execCipher (s : State) : Result :=
  if !s.keyValid then raiseError .noKey s else succeed (s.setBlock (s.encipher s.block))

/-- INV_CIPHER (R215). -/
def execInvCipher (s : State) : Result :=
  if !s.keyValid then raiseError .noKey s else succeed (s.setBlock (s.decipher s.block))

end Sys2Proof.Machine
end

