-- ==== Sys2Proof/Machine/Control.lean ====
section
/-! DEFINITION. The control command NOP (46_control.md R293). -/

namespace Sys2Proof.Machine

/-- NOP does nothing but complete (R293). -/
def execNop (s : State) : Result := succeed s

end Sys2Proof.Machine
end

