-- ==== Sys2Proof/Machine/KeySchedule.lean ====
section
/-! DEFINITION. The key schedule (41_key_schedule.md R160 to R167) and MAKE_KEY (R165). -/

namespace Sys2Proof.Machine

/-- `KEY[i]`; the index is below 32 wherever a rule reads it (log 18). -/
def keyByte (key : Vector Byte 32) (i : Nat) : Byte := (key[i]?).getD 0

/-- Schedule word `i` taken from the key, big-endian (R161). -/
def keyWord (key : Vector Byte 32) (i : Nat) : Word :=
  wordBE (keyByte key (4 * i)) (keyByte key (4 * i + 1)) (keyByte key (4 * i + 2)) (keyByte key (4 * i + 3))

/-- RotWord, the 8-bit left rotation (R162). -/
def rotWord (x : Word) : Word := x <<< 8 ||| x >>> 24

/-- SubWord, byte-wise S-box substitution (R163). -/
def subWord (x : Word) : Word :=
  wordBE (sbox (byteBE x 0)) (sbox (byteBE x 1)) (sbox (byteBE x 2)) (sbox (byteBE x 3))

/-- The round constant as a word, in the most significant byte (40_gf_sbox.md R138). -/
def rconWord (j : Nat) : Word := (rcon j).setWidth 32 <<< 24

/-- What `temp` becomes for word `i` of the expansion (R164). -/
def expandTemp (nk i : Nat) (temp : Word) : Word :=
  if i % nk = 0 then subWord (rotWord temp) ^^^ rconWord (i / nk)
  else if 6 < nk ∧ i % nk = 4 then subWord temp
  else temp

/-- Append the next schedule word `w[i] = w[i-Nk] ^ temp` (R164), `i` the number of words so far. -/
def expandStep (nk : Nat) (w : List Word) : List Word :=
  w ++ [w.getD (w.length - nk) 0 ^^^ expandTemp nk w.length (w.getD (w.length - 1) 0)]

/-- Append `n` more words. -/
def expandLoop (nk : Nat) : Nat → List Word → List Word
  | 0, w => w
  | n + 1, w => expandLoop nk n (expandStep nk w)

/-- The schedule `w[0 .. 4*(Nr+1))` of a key of `nk` words, `Nr = nk + 6` (R164). -/
def expand (nk : Nat) (key : Vector Byte 32) : List Word :=
  expandLoop nk (4 * (nk + 7) - nk) ((List.range nk).map (keyWord key))

/-- The three legal key lengths (R160). -/
def keyLengthLegal (n : BitVec 8) : Bool := n == 16 || n == 24 || n == 32

/-- `KS[i] <- w[i]` for every word of the schedule; the words after it are kept (R165). -/
def storeSchedule (w : List Word) (ks : Vector Word 60) : Vector Word 60 :=
  Vector.ofFn fun i => (w[i.val]?).getD ks[i]

/-- MAKE_KEY (R165). -/
def execMakeKey (s : State) : Result :=
  if keyLengthLegal s.keyLen then
    let nk := s.keyLen.toNat / 4
    succeed { s with
      ksValid := false, ks := storeSchedule (expand nk s.key) s.ks
      keyValid := true, nr := BitVec.ofNat 4 (nk + 6) }
  else
    raiseError .nonstandardKeyLength { s with ksValid := false, keyValid := false, nr := 0 }

end Sys2Proof.Machine
end

