-- ==== Sys2Proof/Machine/Padding.lean ====
section
/-! DEFINITION. The PKCS7 padder (44_padding.md R230 to R233) and its commands (R234, R235). -/

namespace Sys2Proof.Machine

/-- The pad count `p = bs - (len mod bs)` (R230). -/
def padCount (len bs : Nat) : Nat := bs - len % bs

/-- `pad(data, bs)` (R230). -/
def pad (data : List Byte) (bs : Nat) : List Byte :=
  data ++ List.replicate (padCount data.length bs) (BitVec.ofNat 8 (padCount data.length bs))

/-- `unpad_length(data)` (R231): the last byte N gives `len - N` when the last N bytes exist and are all N, and the full
length otherwise, also for an empty buffer. -/
def unpadLength (data : List Byte) : Nat :=
  match data.getLast? with
  | none => 0
  | some n =>
    if data.length < n.toNat then data.length
    else if (data.drop (data.length - n.toNat)).all (· == n) then data.length - n.toNat
    else data.length

/-- PAD (R234). A block size of 0 is IllegalCommand; the decoder refuses it already (log 15). -/
def execPad (bs : Byte) (s : State) : Result :=
  if argNat bs = 0 then raiseError .illegalCommand s
  else if s.overlong then raiseError .lengthOverflow s
  else if s.maxMsg + 16 < s.inCount + padCount s.inCount (argNat bs) then raiseError .lengthOverflow s
  else succeed (s.output (pad s.message (argNat bs)))

/-- UNPAD_LEN (R235): invalid padding is a result, not an error. -/
def execUnpadLen (s : State) : Result :=
  if s.overlong then raiseError .lengthOverflow s
  else succeed (s.setResult (BitVec.ofNat 32 (unpadLength s.message)))

end Sys2Proof.Machine
end

