-- ==== Sys2Proof/Machine/Modes.lean ====
section
/-! DEFINITION. The mode engines ECB, CBC and CTR (45_modes.md R250 to R268). Every mode is a function of a block function
`E` (Cipher) or `D` (InvCipher), and its command gives it the current key schedule (R250). -/

namespace Sys2Proof.Machine

/-- Block `k` of a byte sequence, `data[16k .. 16k+16)`; every use has those bytes (log 18). -/
def blockAt (data : List Byte) (k : Nat) : Block := Vector.ofFn fun i => data.getD (16 * k + i.val) 0

/-- The blocks of a byte sequence, in order. -/
def toBlocks (data : List Byte) : List Block := (List.range (data.length / 16)).map (blockAt data)

/-- Concatenation of blocks. -/
def ofBlocks (bs : List Block) : List Byte := bs.flatMap Vector.toList

/-- `a ^ b` of two blocks, element by element (00_scope.md R13). -/
def xorBlock (a b : Block) : Block := Vector.ofFn fun i => a[i] ^^^ b[i]

/-! ### ECB -/

/-- `ecb_encrypt(m)` (R251). -/
def ecbEncrypt (E : Block → Block) (m : List Byte) : List Byte := ofBlocks ((toBlocks (pad m 16)).map E)

/-- The decrypted buffer D of `ecb_decrypt(c)` before its padding is looked at (R253). -/
def ecbDecryptRaw (D : Block → Block) (c : List Byte) : List Byte := ofBlocks ((toBlocks c).map D)

/-! ### CBC -/

/-- The ciphertext blocks of CBC, `prev` the chaining value (R255). -/
def cbcEncryptBlocks (E : Block → Block) : Block → List Block → List Block
  | _, [] => []
  | prev, p :: ps => E (xorBlock p prev) :: cbcEncryptBlocks E (E (xorBlock p prev)) ps

/-- `cbc_encrypt(m, iv)` (R255). -/
def cbcEncrypt (E : Block → Block) (iv : Block) (m : List Byte) : List Byte :=
  ofBlocks (cbcEncryptBlocks E iv (toBlocks (pad m 16)))

/-- The decrypted blocks of CBC, `prev` the chaining value (R257). -/
def cbcDecryptBlocks (D : Block → Block) : Block → List Block → List Block
  | _, [] => []
  | prev, c :: cs => xorBlock (D c) prev :: cbcDecryptBlocks D c cs

/-- The decrypted buffer D of `cbc_decrypt(c, iv)` before its padding is looked at (R257). -/
def cbcDecryptRaw (D : Block → Block) (iv : Block) (c : List Byte) : List Byte :=
  ofBlocks (cbcDecryptBlocks D iv (toBlocks c))

/-- The end of both decryptions (R253, R257, 44_padding.md R233): strip the padding of D, and `none` (PaddingError) when
`unpad_length(D) = len(D)`. -/
def stripPadding (d : List Byte) : Option (List Byte) :=
  if unpadLength d = d.length then none else some (d.take (unpadLength d))

/-- The last step of DEC_ECB and DEC_CBC: output the stripped message, or PaddingError (R254, R260). -/
def finishDecrypt (d : List Byte) (s : State) : Result :=
  match stripPadding d with
  | none => raiseError .paddingError s
  | some m => succeed (s.output m)

/-! ### CTR -/

/-- The counter block: the nonce, then the counter, each least significant byte first (R265). -/
def ctrBlock (n i : U64) : Block :=
  Vector.ofFn fun j => if j.val < 8 then n.extractLsb' (8 * j.val) 8 else i.extractLsb' (8 * (j.val - 8)) 8

/-- Keystream byte `k` (R264). -/
def ksByte (E : Block → Block) (n : U64) (k : Nat) : Byte :=
  (E (ctrBlock n (BitVec.ofNat 64 (k / 16))))[k % 16]'(by omega)

/-- XOR with the keystream from byte `k` on. -/
def ctrFrom (E : Block → Block) (n : U64) : Nat → List Byte → List Byte
  | _, [] => []
  | k, b :: bs => (b ^^^ ksByte E n k) :: ctrFrom E n (k + 1) bs

/-- The one-shot buffer transform, from counter 0 (R266). -/
def ctrTransform (E : Block → Block) (n : U64) (m : List Byte) : List Byte := ctrFrom E n 0 m

/-! ### Commands -/

/-- IV_LEN is not 16: the cause of WrongSizeIv (60_exceptions.md R303). -/
def State.wrongIv (s : State) : Bool := s.ivLen != 16

/-- IN_LEN is not a multiple of 16: the cause of IrregularDecryptLength (R302). -/
def State.ragged (s : State) : Bool := s.inCount % 16 != 0

/-- ENC_ECB (R252). -/
def execEncEcb (s : State) : Result :=
  if !s.keyValid then raiseError .noKey s
  else if s.overlong then raiseError .lengthOverflow s
  else succeed (s.output (ecbEncrypt s.encipher s.message))

/-- DEC_ECB (R254). -/
def execDecEcb (s : State) : Result :=
  if !s.keyValid then raiseError .noKey s
  else if s.overlong then raiseError .lengthOverflow s
  else if s.ragged then raiseError .irregularDecryptLength s
  else finishDecrypt (ecbDecryptRaw s.decipher s.message) s

/-- ENC_CBC (R256). -/
def execEncCbc (s : State) : Result :=
  if !s.keyValid then raiseError .noKey s
  else if s.overlong then raiseError .lengthOverflow s
  else if s.wrongIv then raiseError .wrongSizeIv s
  else succeed (s.output (cbcEncrypt s.encipher s.iv s.message))

/-- DEC_CBC (R260). -/
def execDecCbc (s : State) : Result :=
  if !s.keyValid then raiseError .noKey s
  else if s.overlong then raiseError .lengthOverflow s
  else if s.wrongIv then raiseError .wrongSizeIv s
  else if s.ragged then raiseError .irregularDecryptLength s
  else finishDecrypt (cbcDecryptRaw s.decipher s.iv s.message) s

/-- CTR_XFORM (R266). -/
def execCtrXform (s : State) : Result :=
  if !s.keyValid then raiseError .noKey s
  else if s.overlong then raiseError .lengthOverflow s
  else succeed (s.output (ctrTransform s.encipher s.nonce s.message))

end Sys2Proof.Machine
end

