-- ==== Sys2Proof/Machine/Keystream.lean ====
section
/-! DEFINITION. The keystream cursor (45_modes.md R273) and its commands (R270 to R272). -/

namespace Sys2Proof.Machine

/-- The byte `next_ks_byte()` returns (R273). -/
def State.cursorByte (s : State) : Byte := (s.encipher (ctrBlock s.ksNonce s.ksCtr))[s.ksIdx.toNat]'(s.ksIdx.isLt)

/-- The cursor after `next_ks_byte()` (R273); the counter wraps modulo 2^64 (R267). -/
def State.advanceCursor (s : State) : State :=
  if s.ksIdx = 15 then { s with ksIdx := 0, ksCtr := s.ksCtr + 1 } else { s with ksIdx := s.ksIdx + 1 }

/-- The cursor after `n` times `next_ks_byte()`. -/
def State.advanceBy (s : State) : Nat → State
  | 0 => s
  | n + 1 => s.advanceCursor.advanceBy n

/-- The bytes of `n` times `next_ks_byte()`, in order (R271). -/
def State.cursorBytes (s : State) : Nat → List Byte
  | 0 => []
  | n + 1 => s.cursorByte :: s.advanceCursor.cursorBytes n

/-- KS_RESET (R270). -/
def execKsReset (s : State) : Result :=
  if !s.keyValid then raiseError .noKey s
  else succeed { s with ksNonce := s.nonce, ksCtr := 0, ksIdx := 0, ksValid := true }

/-- KS_READ (R271). -/
def execKsRead (s : State) : Result :=
  if !s.ksValid then raiseError .noKey s
  else if s.overlong then raiseError .lengthOverflow s
  else succeed ((s.advanceBy s.inCount).output (s.cursorBytes s.inCount))

/-- KS_NEXT (R272). -/
def execKsNext (s : State) : Result :=
  if !s.ksValid then raiseError .noKey s
  else succeed (s.advanceCursor.setResult (zext s.cursorByte))

end Sys2Proof.Machine
end

