-- ==== Sys2Proof/Machine/Dispatch.lean ====
section
/-! DEFINITION. The dispatch of a decoded command to its meaning (46_control.md R292). -/

namespace Sys2Proof.Machine

-- The semantic function of a decoded command, with its completion (R291, R292): one arm per constructor.
def exec (i : Instr) (s : State) : Host.Outcome State Fault Refusal :=
  match i with
  | .nop => Sys2Proof.Machine.execNop s
  | .makeKey => Sys2Proof.Machine.execMakeKey s
  | .encEcb => Sys2Proof.Machine.execEncEcb s
  | .decEcb => Sys2Proof.Machine.execDecEcb s
  | .encCbc => Sys2Proof.Machine.execEncCbc s
  | .decCbc => Sys2Proof.Machine.execDecCbc s
  | .ctrXform => Sys2Proof.Machine.execCtrXform s
  | .ksReset => Sys2Proof.Machine.execKsReset s
  | .ksRead => Sys2Proof.Machine.execKsRead s
  | .ksNext => Sys2Proof.Machine.execKsNext s
  | .cipher => Sys2Proof.Machine.execCipher s
  | .invCipher => Sys2Proof.Machine.execInvCipher s
  | .pad bs => Sys2Proof.Machine.execPad bs s
  | .unpadLen => Sys2Proof.Machine.execUnpadLen s
  | .gfMul => Sys2Proof.Machine.execGfMul s
  | .xtime => Sys2Proof.Machine.execXtime s
  | .sbox => Sys2Proof.Machine.execSbox s
  | .invSbox => Sys2Proof.Machine.execInvSbox s
  | .rcon j => Sys2Proof.Machine.execRcon j s
  | .subBytes => Sys2Proof.Machine.execSubBytes s
  | .invSubBytes => Sys2Proof.Machine.execInvSubBytes s
  | .shiftRows => Sys2Proof.Machine.execShiftRows s
  | .invShiftRows => Sys2Proof.Machine.execInvShiftRows s
  | .mixColumns => Sys2Proof.Machine.execMixColumns s
  | .invMixColumns => Sys2Proof.Machine.execInvMixColumns s
  | .addRoundKey r => Sys2Proof.Machine.execAddRoundKey r s

end Sys2Proof.Machine
end

