-- ==== Sys2Proof/Machine/Engine.lean ====
section
/-! DEFINITION. The Engine's top-level dispatch and its one move, the completion of the running command (46_control.md R291,
R292). -/

namespace Sys2Proof.Machine

/-- `execute(w)` with completion (R292): an illegal word raises IllegalCommand (30_encoding.md R105). -/
def execute (w : Word) (s : State) : Result :=
  match decode w with
  | .error _ => raiseError .illegalCommand s
  | .ok i => exec i s

/-- The Engine completes the running command (R291); when none is running it is idle and keeps all state
(60_exceptions.md R335). -/
def engineMove (s : State) : Result :=
  match s.running with
  | none => .next s
  | some w => execute w s

end Sys2Proof.Machine
end

