-- ==== Sys2Proof/Machine/Step.lean ====
section
/-! DEFINITION. One step of the machine: the oldest pending event happens; with none pending the Engine moves. -/

namespace Sys2Proof.Machine

/-- One event (00_scope.md R5, 20_memory.md R81; log 3). -/
def happen (e : Event) (s : State) : Result :=
  match e with
  | .engine => engineMove s
  | .hardReset => .next s.hardReset
  | .read size off => busRead size off s
  | .write size off v => busWrite size off v s

/-- One step. With no event pending, a running command completes (every command does, 46_control.md R291) and an idle
machine keeps all state. -/
def step (s : State) : Host.Outcome State Fault Refusal :=
  match s.pending with
  | [] => engineMove s
  | e :: rest => happen e { s with pending := rest }

/-- The state with command word `w` (bits at and above `nbits` zero) where the Engine takes its next command: latched as
the running command with DONE = 0, as a CMD write does (R290), and the Engine's move the next event (log 5). -/
def State.withFetchWord (s : State) (nbits w : Nat) : State :=
  { s with
    running := some (BitVec.ofNat 32 (w % 2 ^ nbits)), done := false
    pending := .engine :: s.pending }

end Sys2Proof.Machine
end

