-- ==== Sys2Proof/Safety.lean ====
section
/-! DEFINITION. What every state of a run keeps (the invariants the spec states), and when a Host event is one the spec
supports. -/

namespace Sys2Proof.Machine

/-- The three invariants of STATUS (10_state.md R23), NR a legal round count (00_scope.md R8), and ERR a code of
60_exceptions.md R300. -/
abbrev State.statusInv (s : State) : Prop :=
  (s.keyValid = false ↔ s.nr = 0) ∧ (s.ksValid = true → s.keyValid = true) ∧ (s.busy = true → s.done = false)
    ∧ (s.nr = 0 ∨ s.nr = 10 ∨ s.nr = 12 ∨ s.nr = 14) ∧ s.err.toNat ≤ 7

/-- MAX_MSG is legal, and IBUF and OBUF are in canonical form inside their windows (00_scope.md R9, 10_state.md R39, R40). -/
abbrev State.memoryInv (s : State) : Prop :=
  legalMaxMsg s.maxMsg = true ∧ s.ibuf.wf ibufBase (ibufBase + s.maxMsg) ∧ s.obuf.wf obufBase (obufBase + s.maxMsg + 16)

/-- The invariant of every step. -/
abbrev State.Inv (s : State) : Prop := s.statusInv ∧ s.memoryInv

/-- The Host event is one the spec supports in this state: an aligned word access (20_memory.md R73), and while BUSY = 1 no
write but to CTRL and STATUS (70_reset_and_hazards.md R350). -/
def supported (s : State) : Event → Bool
  | .engine | .hardReset => true
  | .read size off => legalAccess size off
  | .write size off _ => legalAccess size off && (!s.busy || writableWhileBusy off)

end Sys2Proof.Machine
end

