-- ==== Sys2Proof/Certificates/Slice0/Obligations.lean ====
section
/-! DEFINITION. The statements for the provers, from the spec's numbered rules. First the words they share, then the
statements by section of the spec. -/

namespace Sys2Proof.Machine

/-! ### Words the statements share -/

/-- `s` after a successful completion that writes nothing else (46_control.md R291, R292). -/
def State.completed (s : State) : State := { s with err := 0, done := true, running := none }

/-- `s` after a completion with error code `e` (60_exceptions.md R312). -/
def State.failedWith (e : BitVec 4) (s : State) : State :=
  { s with err := e, outLen := 0, result := 0, done := true, running := none }

/-- `t` is `s` after a success that outputs the `n` bytes `byte 0`, `byte 1`, … and changes nothing else: OBUF's other bytes
are kept (10_state.md R28, R40). -/
def Outputs (s t : State) (n : Nat) (byte : Nat → Byte) : Prop :=
  t = { s.completed with obuf := t.obuf, outLen := BitVec.ofNat 32 n }
    ∧ (∀ k, k < n → t.obufByte k = byte k)
    ∧ ∀ a, a < obufBase ∨ obufBase + n ≤ a → t.obuf.read a = s.obuf.read a

/-- The word whose OPCODE is `opc` and all of whose other bits are 0 is command `i`, and every other word with that OPCODE
completes with IllegalCommand (30_encoding.md R102, R105). -/
def PlainEncoding (opc : Byte) (i : Instr) : Prop :=
  decode (opc.setWidth 32) = .ok i
    ∧ ∀ (w : Word) (s : State), opcodeField w = opc → w ≠ opc.setWidth 32 → execute w s = .next (s.failedWith 7)

/-- In an idle machine a word read of `off` returns `f` of the state and changes nothing else (20_memory.md R71). -/
def ReadsAs (off : Offset) (f : State → Word) : Prop :=
  ∀ (s : State) (rest : List Event), s.running = none → s.pending = .read .word off :: rest →
    step s = .next { s with pending := rest, readData := f s }

/-- In an idle machine a word write of `v` to `off` gives the state `f s v` (20_memory.md R72). -/
def WritesTo (off : Offset) (f : State → Word → State) : Prop :=
  ∀ (s : State) (v : Word) (rest : List Event), s.running = none → s.pending = .write .word off v :: rest →
    step s = .next (f { s with pending := rest } v)

/-- IN_LEN as a number. -/
abbrev State.len (s : State) : Nat := s.inLen.toNat

/-- Byte `k` of the message padded to 16 (44_padding.md R230). -/
def paddedByte (s : State) (k : Nat) : Byte := if k < s.len then s.ibufByte k else BitVec.ofNat 8 (16 - s.len % 16)

/-- Block `j` of the padded message. -/
def paddedBlock (s : State) (j : Nat) : Block := Vector.ofFn fun i => paddedByte s (16 * j + i.val)

/-- Block `j` of IBUF. -/
def inBlock (s : State) (j : Nat) : Block := Vector.ofFn fun i => s.ibufByte (16 * j + i.val)

/-- Block `j` of OBUF. -/
def outBlock (s : State) (j : Nat) : Block := Vector.ofFn fun i => s.obufByte (16 * j + i.val)

/-- Byte `k mod 16` of a block. -/
def byteOf (b : Block) (k : Nat) : Byte := b[k % 16]'(by omega)

/-- Byte `k` of the buffer DEC_ECB decrypts (45_modes.md R253). -/
def ecbPlain (s : State) (k : Nat) : Byte := byteOf (invCipher s.ks s.nr.toNat (inBlock s (k / 16))) k

/-- Byte `k` of the buffer DEC_CBC decrypts: the previous ciphertext byte is IV's in the first block (R257). -/
def cbcPlain (s : State) (k : Nat) : Byte :=
  byteOf (invCipher s.ks s.nr.toNat (inBlock s (k / 16))) k ^^^ (if k < 16 then byteOf s.iv k else s.ibufByte (k - 16))

/-- Keystream byte `k` of nonce `n` under the current key (R264), the counter modulo 2^64 (R267). -/
def streamByte (s : State) (n : U64) (k : Nat) : Byte :=
  byteOf (cipher s.ks s.nr.toNat (ctrBlock n (BitVec.ofNat 64 (k / 16)))) k

/-- Where the cursor stands, `16 * KS_CTR + KS_IDX` (R273). -/
def State.cursor (s : State) : Nat := 16 * s.ksCtr.toNat + s.ksIdx.toNat

/-- `NONCE_HI || NONCE_LO` (10_state.md R29). -/
abbrev State.hostNonce (s : State) : U64 := s.nonceHi ++ s.nonceLo

/-- The outcome of DEC_ECB and DEC_CBC once `d` is decrypted: PaddingError when `unpad_length` is the full length, else the
stripped message (44_padding.md R233). -/
def DecryptEnds (i : Instr) (s : State) (d : Nat → Byte) : Prop :=
  (unpadLength ((List.range s.len).map d) = s.len → exec i s = .next (s.failedWith 4))
    ∧ (unpadLength ((List.range s.len).map d) ≠ s.len →
        ∃ t, exec i s = .next t ∧ Outputs s t (unpadLength ((List.range s.len).map d)) d)

/-- The error a command reports: the first that applies, in 60_exceptions.md R310's order after decoding; 0 for none (R311). -/
def firstError (i : Instr) (s : State) : BitVec 4 :=
  let noKey := s.keyValid = false
  let noStream := s.ksValid = false
  let long := s.maxMsg < s.len
  let badIv := s.ivLen.toNat ≠ 16
  let ragged := s.len % 16 ≠ 0
  match i with
  | .nop | .gfMul | .xtime | .sbox | .invSbox => 0
  | .subBytes | .invSubBytes | .shiftRows | .invShiftRows | .mixColumns | .invMixColumns => 0
  | .rcon j => if j.toNat = 0 ∨ 10 < j.toNat then 7 else 0
  | .makeKey => if s.keyLen.toNat = 16 ∨ s.keyLen.toNat = 24 ∨ s.keyLen.toNat = 32 then 0 else 1
  | .cipher | .invCipher | .ksReset => if noKey then 5 else 0
  | .addRoundKey r => if noKey then 5 else if s.nr.toNat < r.toNat then 7 else 0
  | .ksNext => if noStream then 5 else 0
  | .ksRead => if noStream then 5 else if long then 6 else 0
  | .pad bs =>
    if bs.toNat = 0 then 7
    else if long then 6
    else if s.maxMsg + 16 < s.len + (bs.toNat - s.len % bs.toNat) then 6 else 0
  | .unpadLen => if long then 6 else 0
  | .encEcb | .ctrXform => if noKey then 5 else if long then 6 else 0
  | .encCbc => if noKey then 5 else if long then 6 else if badIv then 3 else 0
  | .decEcb =>
    if noKey then 5 else if long then 6 else if ragged then 2
    else if unpadLength ((List.range s.len).map (ecbPlain s)) = s.len then 4 else 0
  | .decCbc =>
    if noKey then 5 else if long then 6 else if badIv then 3 else if ragged then 2
    else if unpadLength ((List.range s.len).map (cbcPlain s)) = s.len then 4 else 0

end Sys2Proof.Machine

open Sys2Proof Sys2Proof.Machine

/-! ### Encoding and the step -/

/-- Decoding an encoded well-formed command gives it back, with every operand (30_encoding.md R100, R102, R104, R106). -/
def Obligations.DecodeOfEncodeGivesTheCommand : Prop := ∀ i : Instr, i.wellFormed = true → decode (encode i) = .ok i

/-- A word that decodes is the encoding of the well-formed command it decodes to: no word has two meanings and no bit of an
accepted word is dropped (R100, R106). -/
def Obligations.EncodeOfDecodeGivesTheWord : Prop :=
  ∀ (w : Word) (i : Instr), decode w = .ok i → i.wellFormed = true ∧ encode i = w

/-- Words written out from R104's table and R100's format decode to their commands. -/
def Obligations.TableWordsDecodeToTheirCommands : Prop :=
  decode 0x00000000 = .ok .nop ∧ decode 0x00000001 = .ok .makeKey ∧ decode 0x00000005 = .ok .decCbc
    ∧ decode 0x00000008 = .ok .ksRead ∧ decode 0x00000011 = .ok .invCipher ∧ decode 0x0000ff12 = .ok (.pad 0xff)
    ∧ decode 0x00000023 = .ok .invSbox ∧ decode 0x00000a24 = .ok (.rcon 10) ∧ decode 0x00000e36 = .ok (.addRoundKey 14)

/-- The illegal words (R105): RSVD nonzero, an OPCODE outside the table, or ARG8 outside R102's legal values; each completes
with IllegalCommand, code 7, with the failure effects; so does ADD_ROUND_KEY with a round above NR once a key is valid. -/
def Obligations.IllegalWordsCompleteWithIllegalCommand : Prop :=
  ∀ (w : Word) (s : State),
    let opc := w.toNat % 256
    let arg := w.toNat / 256 % 256
    let known := opc ≤ 0x09 ∨ (0x10 ≤ opc ∧ opc ≤ 0x13) ∨ (0x20 ≤ opc ∧ opc ≤ 0x24) ∨ (0x30 ≤ opc ∧ opc ≤ 0x36)
    let argBad := (opc = 0x12 ∧ arg = 0) ∨ (opc = 0x24 ∧ (arg = 0 ∨ 10 < arg))
      ∨ (opc ≠ 0x12 ∧ opc ≠ 0x24 ∧ opc ≠ 0x36 ∧ arg ≠ 0)
    ((w.toNat / 65536 ≠ 0 ∨ ¬known ∨ argBad) ↔ ∃ e, decode w = .error e)
      ∧ ((w.toNat / 65536 ≠ 0 ∨ ¬known ∨ argBad) → execute w s = .next (s.failedWith 7))
      ∧ (w.toNat / 65536 = 0 → opc = 0x36 → s.keyValid = true → s.nr.toNat < arg → execute w s = .next (s.failedWith 7))

/-- The step that completes a command runs the decoded command on the state, whether the Engine's move is the next event or
nothing is pending; and a word placed by `withFetchWord` is the next one run (46_control.md R291, R292; the events are the
model's, log 3 and log 5). -/
def Obligations.StepRunsTheDecodedCommand : Prop :=
  ∀ (s : State) (w : Word) (i : Instr), decode w = .ok i →
    (s.running = some w → s.pending = [] → step s = exec i s)
      ∧ (∀ rest, s.running = some w → s.pending = .engine :: rest → step s = exec i { s with pending := rest })
      ∧ step (s.withFetchWord 32 w.toNat) = exec i { s with running := some w, done := false }

/-- With no command running the Engine does nothing, and an idle machine with nothing pending keeps all state
(60_exceptions.md R335; the event queue is the model's, log 3). -/
def Obligations.IdleEngineKeepsAllState : Prop :=
  ∀ (s : State), s.running = none →
    (s.pending = [] → step s = .next s) ∧ ∀ rest, s.pending = .engine :: rest → step s = .next { s with pending := rest }

/-! ### Command start and completion -/

/-- A CMD write while BUSY = 0 latches the word, sets BUSY, clears DONE, so IRQ is 0, and keeps ERR and all else (R290). -/
def Obligations.CmdWriteStartsACommand : Prop :=
  ∀ (s : State) (w : Word) (rest : List Event), s.busy = false → s.pending = .write .word 0x00C w :: rest →
    ∃ t, step s = .next t ∧ t = { s with pending := rest, running := some w, done := false }
      ∧ t.busy = true ∧ t.done = false ∧ t.irq = false ∧ t.err = s.err

/-- Every command completes: from any state it answers a next state with BUSY = 0 and DONE = 1, so IRQ is IRQ_EN, and so does
every command word, legal or not, when the Engine moves (R291, 60_exceptions.md R320). -/
def Obligations.EveryCommandCompletes : Prop :=
  ∀ (s : State),
    (∀ i : Instr, ∃ t, exec i s = .next t ∧ t.busy = false ∧ t.done = true ∧ t.irq = s.irqEn)
      ∧ ∀ w : Word, s.running = some w → s.pending = [] →
          ∃ t, step s = .next t ∧ t.busy = false ∧ t.done = true ∧ t.irq = s.irqEn

/-- NOP: its encoding, and that it does nothing but complete (R293). -/
def Obligations.NopOnlyCompletes : Prop := PlainEncoding 0x00 .nop ∧ ∀ s : State, exec .nop s = .next s.completed

/-! ### GF(2^8), S-box and round-constant commands -/

/-- GF_MUL and XTIME write the zero-extended product and complete (R140, R141). -/
def Obligations.FieldCommandsWriteResult : Prop :=
  PlainEncoding 0x20 .gfMul ∧ PlainEncoding 0x21 .xtime
    ∧ ∀ s : State,
        exec .gfMul s = .next { s.completed with result := (gfMul s.opa s.opb).setWidth 32 }
          ∧ exec .xtime s = .next { s.completed with result := (xtime s.opa).setWidth 32 }

/-- SBOX and INV_SBOX write the zero-extended ROM entry at OPA and complete (R142, R143). -/
def Obligations.SboxCommandsWriteResult : Prop :=
  PlainEncoding 0x22 .sbox ∧ PlainEncoding 0x23 .invSbox
    ∧ ∀ s : State,
        exec .sbox s = .next { s.completed with result := (sbox s.opa).setWidth 32 }
          ∧ exec .invSbox s = .next { s.completed with result := (invSbox s.opa).setWidth 32 }

/-- RCON writes the round constant of an index 1 to 10, which is 0x01 doubled `j - 1` times; any other index, and a nonzero
RSVD, is IllegalCommand (R144, R137). -/
def Obligations.RconCommandWritesRoundConstant : Prop :=
  (∀ (s : State) (j : Byte), 1 ≤ j.toNat → j.toNat ≤ 10 →
      decode (0x24 ||| j.setWidth 32 <<< 8) = .ok (.rcon j)
        ∧ exec (.rcon j) s = .next { s.completed with result := (xtime^[j.toNat - 1] 0x01).setWidth 32 })
    ∧ ∀ (s : State) (w : Word), opcodeField w = 0x24 →
        (argField w).toNat = 0 ∨ 10 < (argField w).toNat ∨ rsvdField w ≠ 0 → execute w s = .next (s.failedWith 7)

/-- Doubling and the field product (R131, R132): `xtime` shifts and reduces by 0x1b; the product is commutative, distributes over
XOR, doubles when a factor is doubled (R132's loop), and has the values at 0, 1, 2 and 3 that R132 lists. These determine the
product of every two bytes. -/
def Obligations.FieldProductLaws : Prop :=
  ∀ a b c : Byte,
    xtime a = (if 128 ≤ a.toNat then (a <<< 1) ^^^ 0x1b else a <<< 1)
      ∧ gfMul a b = gfMul b a ∧ gfMul a (b ^^^ c) = gfMul a b ^^^ gfMul a c ∧ gfMul a (xtime b) = xtime (gfMul a b)
      ∧ gfMul a 0x01 = a ∧ gfMul a 0x00 = 0x00 ∧ gfMul a 0x02 = xtime a ∧ gfMul a 0x03 = xtime a ^^^ a

/-- The S-box is the affine map of the field inverse (R133), with 0 its own inverse; no byte is fixed by it (R136), and SBOX and
INV_SBOX are inverse permutations of the bytes (R135). -/
def Obligations.SboxIsAffineOfFieldInverse : Prop :=
  (∀ a b : Byte, gfMul a b = 0x01 ∨ (a = 0 ∧ b = 0) →
      sbox a = b ^^^ b.rotateLeft 1 ^^^ b.rotateLeft 2 ^^^ b.rotateLeft 3 ^^^ b.rotateLeft 4 ^^^ 0x63)
    ∧ ∀ b : Byte, sbox b ≠ b ∧ invSbox (sbox b) = b ∧ sbox (invSbox b) = b

/-! ### Key schedule -/

/-- The expansion's words: the key words big-endian (R161), then `w[i] = w[i-Nk] ^ temp` with RotWord, SubWord and the round
constant at multiples of Nk, and SubWord alone at `i mod Nk = 4` for Nk = 8 only (R162, R164); and SubWord replaces each of the
four bytes of a word by its S-box entry, in place (R163). -/
def Obligations.KeyExpansionRecurrence : Prop :=
  (∀ (x : Word) (j : Fin 4), (subWord x).extractLsb' (8 * j.val) 8 = sbox (x.extractLsb' (8 * j.val) 8))
    ∧ ∀ (nk : Nat) (key : Vector Byte 32), nk = 4 ∨ nk = 6 ∨ nk = 8 →
      let w := fun i => (expand nk key).getD i 0
      (expand nk key).length = 4 * (nk + 6 + 1)
        ∧ (∀ (i : Nat) (h : i < nk) (hk : 4 * i + 3 < 32),
            w i = key[4 * i].setWidth 32 <<< 24 ||| key[4 * i + 1].setWidth 32 <<< 16 ||| key[4 * i + 2].setWidth 32 <<< 8
              ||| key[4 * i + 3].setWidth 32)
        ∧ ∀ i, nk ≤ i → i < 4 * (nk + 6 + 1) →
            w i = w (i - nk) ^^^
              (if i % nk = 0 then subWord ((w (i - 1)).rotateLeft 8) ^^^ ((rcon (i / nk)).setWidth 32 <<< 24)
               else if 6 < nk ∧ i % nk = 4 then subWord (w (i - 1)) else w (i - 1))

/-- MAKE_KEY: a KEY_LEN other than 16, 24, 32 is NonstandardKeyLength and leaves no key and no keystream; otherwise KS takes
the expansion, its later words are kept, KEY_VALID = 1, NR = Nk + 6 and the keystream is ended (R165). -/
def Obligations.MakeKeyExpandsOrRejectsTheKey : Prop :=
  PlainEncoding 0x01 .makeKey
    ∧ ∀ s : State,
        let n := s.keyLen.toNat
        (n ≠ 16 ∧ n ≠ 24 ∧ n ≠ 32 →
            exec .makeKey s = .next { s.failedWith 1 with ksValid := false, keyValid := false, nr := 0 })
          ∧ (n = 16 ∨ n = 24 ∨ n = 32 →
              exec .makeKey s = .next { s.completed with
                ksValid := false, keyValid := true, nr := BitVec.ofNat 4 (n / 4 + 6)
                ks := Vector.ofFn fun i =>
                  if i.val < 4 * (n / 4 + 6 + 1) then (expand (n / 4) s.key).getD i.val 0 else s.ks[i] })

/-- KEY bytes at or beyond KEY_LEN are not read by MAKE_KEY (R165, R35). -/
def Obligations.MakeKeyReadsOnlyKeyLenBytes : Prop :=
  ∀ (s t : State) (k : Vector Byte 32), (∀ i : Fin 32, i.val < s.keyLen.toNat → k[i] = s.key[i]) →
    exec .makeKey s = .next t → exec .makeKey { s with key := k } = .next { t with key := k }

/-! ### Round transforms -/

/-- SUB_BYTES and INV_SUB_BYTES replace every byte of STATE by its ROM entry (R181, R182, R190, R191). -/
def Obligations.SubBytesCommandsSubstituteEveryByte : Prop :=
  PlainEncoding 0x30 .subBytes ∧ PlainEncoding 0x31 .invSubBytes
    ∧ ∀ s : State,
        (∃ b : Block, exec .subBytes s = .next { s.completed with block := b } ∧ ∀ i : Fin 16, b[i] = sbox s.block[i])
          ∧ ∃ b : Block, exec .invSubBytes s = .next { s.completed with block := b }
              ∧ ∀ i : Fin 16, b[i] = invSbox s.block[i]

/-- SHIFT_ROWS and INV_SHIFT_ROWS rotate row `r` of STATE left and right by `r` (R183, R184, R192, R193). -/
def Obligations.ShiftRowsCommandsRotateRows : Prop :=
  PlainEncoding 0x32 .shiftRows ∧ PlainEncoding 0x33 .invShiftRows
    ∧ ∀ s : State,
        (∃ b : Block, exec .shiftRows s = .next { s.completed with block := b }
            ∧ ∀ r c : Fin 4, b[r.val + 4 * c.val]'(by omega) = s.block[r.val + 4 * ((c.val + r.val) % 4)]'(by omega))
          ∧ ∃ b : Block, exec .invShiftRows s = .next { s.completed with block := b }
              ∧ ∀ r c : Fin 4, b[r.val + 4 * ((c.val + r.val) % 4)]'(by omega) = s.block[r.val + 4 * c.val]'(by omega)

/-- MIX_COLUMNS and INV_MIX_COLUMNS multiply every column of STATE by R185's and R186's matrices (R194, R195). -/
def Obligations.MixColumnsCommandsMultiplyColumns : Prop :=
  PlainEncoding 0x34 .mixColumns ∧ PlainEncoding 0x35 .invMixColumns
    ∧ ∀ s : State,
        (∃ b : Block, exec .mixColumns s = .next { s.completed with block := b }
            ∧ ∀ c : Fin 4,
                let a := fun r : Fin 4 => s.block[4 * c.val + r.val]'(by omega)
                let a' := fun r : Fin 4 => b[4 * c.val + r.val]'(by omega)
                a' 0 = gfMul 0x02 (a 0) ^^^ gfMul 0x03 (a 1) ^^^ a 2 ^^^ a 3
                  ∧ a' 1 = a 0 ^^^ gfMul 0x02 (a 1) ^^^ gfMul 0x03 (a 2) ^^^ a 3
                  ∧ a' 2 = a 0 ^^^ a 1 ^^^ gfMul 0x02 (a 2) ^^^ gfMul 0x03 (a 3)
                  ∧ a' 3 = gfMul 0x03 (a 0) ^^^ a 1 ^^^ a 2 ^^^ gfMul 0x02 (a 3))
          ∧ ∃ b : Block, exec .invMixColumns s = .next { s.completed with block := b }
              ∧ ∀ c : Fin 4,
                  let a := fun r : Fin 4 => s.block[4 * c.val + r.val]'(by omega)
                  let a' := fun r : Fin 4 => b[4 * c.val + r.val]'(by omega)
                  a' 0 = gfMul 0x0e (a 0) ^^^ gfMul 0x0b (a 1) ^^^ gfMul 0x0d (a 2) ^^^ gfMul 0x09 (a 3)
                    ∧ a' 1 = gfMul 0x09 (a 0) ^^^ gfMul 0x0e (a 1) ^^^ gfMul 0x0b (a 2) ^^^ gfMul 0x0d (a 3)
                    ∧ a' 2 = gfMul 0x0d (a 0) ^^^ gfMul 0x09 (a 1) ^^^ gfMul 0x0e (a 2) ^^^ gfMul 0x0b (a 3)
                    ∧ a' 3 = gfMul 0x0b (a 0) ^^^ gfMul 0x0d (a 1) ^^^ gfMul 0x09 (a 2) ^^^ gfMul 0x0e (a 3)

/-- ADD_ROUND_KEY: RSVD nonzero is IllegalCommand, then NoKey, then IllegalCommand for a round above NR; otherwise column `c`
of STATE is XORed with `KS[4r+c]`, most significant byte into row 0 (R187, R196). The premise that NR is at most 14 holds in
every state that `StepKeepsTheInvariant` covers. -/
def Obligations.AddRoundKeyXorsRoundKey : Prop :=
  (∀ (w : Word) (s : State), opcodeField w = 0x36 → rsvdField w ≠ 0 → execute w s = .next (s.failedWith 7))
    ∧ ∀ (r : Byte) (s : State),
        decode (0x36 ||| r.setWidth 32 <<< 8) = .ok (.addRoundKey r)
          ∧ (s.keyValid = false → exec (.addRoundKey r) s = .next (s.failedWith 5))
          ∧ (s.keyValid = true → s.nr.toNat < r.toNat → exec (.addRoundKey r) s = .next (s.failedWith 7))
          ∧ (s.keyValid = true → s.nr.toNat ≤ 14 → r.toNat ≤ s.nr.toNat →
              ∃ b : Block, exec (.addRoundKey r) s = .next { s.completed with block := b }
                ∧ ∀ (j c : Fin 4) (hk : 4 * r.toNat + c.val < 60),
                    b[j.val + 4 * c.val]'(by omega) = s.block[j.val + 4 * c.val]'(by omega)
                      ^^^ (s.ks[4 * r.toNat + c.val]).extractLsb' (24 - 8 * j.val) 8)

/-- The inverse pairs of the round transforms, and that SubBytes commutes with ShiftRows (R188). -/
def Obligations.RoundTransformsInvert : Prop :=
  ∀ (s : Block) (ks : Vector Word 60) (r : Nat),
    invSubBytes (subBytes s) = s ∧ invShiftRows (shiftRows s) = s ∧ invMixColumns (mixColumns s) = s
      ∧ addRoundKey ks r (addRoundKey ks r s) = s ∧ subBytes (shiftRows s) = shiftRows (subBytes s)

/-! ### Cipher -/

/-- CIPHER and INV_CIPHER without a key are NoKey; with one they replace STATE by the result of R210's and R212's rounds,
given here by the blocks between rounds (R214, R215). The premise that NR is at least 1 holds whenever KEY_VALID = 1 in every
state that `StepKeepsTheInvariant` covers. -/
def Obligations.CipherCommandsRunTheRounds : Prop :=
  PlainEncoding 0x10 .cipher ∧ PlainEncoding 0x11 .invCipher
    ∧ ∀ s : State,
        let nr := s.nr.toNat
        (s.keyValid = false →
            exec .cipher s = .next (s.failedWith 5) ∧ exec .invCipher s = .next (s.failedWith 5))
          ∧ (s.keyValid = true → 1 ≤ nr →
              (∃ x : Nat → Block, x 0 = addRoundKey s.ks 0 s.block
                  ∧ (∀ r, 1 ≤ r → r < nr →
                      x r = addRoundKey s.ks r (mixColumns (shiftRows (subBytes (x (r - 1))))))
                  ∧ exec .cipher s = .next { s.completed with
                      block := addRoundKey s.ks nr (shiftRows (subBytes (x (nr - 1)))) })
                ∧ ∃ y : Nat → Block, y nr = addRoundKey s.ks nr s.block
                    ∧ (∀ r, 1 ≤ r → r < nr →
                        y r = invMixColumns (addRoundKey s.ks r (invSubBytes (invShiftRows (y (r + 1))))))
                    ∧ exec .invCipher s = .next { s.completed with
                        block := addRoundKey s.ks 0 (invSubBytes (invShiftRows (y 1))) })

/-- InvCipher undoes Cipher and Cipher undoes InvCipher, for every schedule, and so do the commands on STATE (R213, R215). -/
def Obligations.InvCipherUndoesCipher : Prop :=
  (∀ (ks : Vector Word 60) (nr : Nat) (b : Block),
      invCipher ks nr (cipher ks nr b) = b ∧ cipher ks nr (invCipher ks nr b) = b)
    ∧ ∀ s : State, s.keyValid = true →
        ∃ t, exec .cipher s = .next t ∧ exec .invCipher t = .next s.completed

/-- Cipher and InvCipher depend on the block and `KS[0 .. 4*(Nr+1))` only (R211). -/
def Obligations.CipherReadsOnlyItsSchedule : Prop :=
  ∀ (ks ks' : Vector Word 60) (nr : Nat) (b : Block), nr ≤ 14 →
    (∀ i : Fin 60, i.val < 4 * (nr + 1) → ks[i] = ks'[i]) →
    cipher ks nr b = cipher ks' nr b ∧ invCipher ks nr b = invCipher ks' nr b

/-! ### Padding -/

/-- PAD: block size 0 or RSVD nonzero is IllegalCommand, IN_LEN above MAX_MSG or an output above MAX_MSG + 16 is
LengthOverflow; otherwise OBUF takes the message and `p` bytes of value `p = bs - (L mod bs)` (R230, R234). -/
def Obligations.PadAppendsPadCountBytes : Prop :=
  (∀ (w : Word) (s : State), opcodeField w = 0x12 → argField w = 0 ∨ rsvdField w ≠ 0 →
      execute w s = .next (s.failedWith 7))
    ∧ ∀ (bs : Byte) (s : State), bs ≠ 0 →
        let p := bs.toNat - s.len % bs.toNat
        decode (0x12 ||| bs.setWidth 32 <<< 8) = .ok (.pad bs)
          ∧ (s.maxMsg < s.len → exec (.pad bs) s = .next (s.failedWith 6))
          ∧ (s.len ≤ s.maxMsg → s.maxMsg + 16 < s.len + p → exec (.pad bs) s = .next (s.failedWith 6))
          ∧ (s.len ≤ s.maxMsg → s.len + p ≤ s.maxMsg + 16 →
              ∃ t, exec (.pad bs) s = .next t
                ∧ Outputs s t (s.len + p) fun k => if k < s.len then s.ibufByte k else BitVec.ofNat 8 p)

/-- UNPAD_LEN: IN_LEN above MAX_MSG is LengthOverflow; otherwise RESULT is 0 for an empty message, `L - N` when the last byte
N is at most L and the last N bytes are all N, and L otherwise (R231, R235). -/
def Obligations.UnpadLenMeasuresPadding : Prop :=
  PlainEncoding 0x13 .unpadLen
    ∧ ∀ s : State,
        let n := (s.ibufByte (s.len - 1)).toNat
        let valid := n ≤ s.len ∧ ∀ k, s.len - n ≤ k → k < s.len → (s.ibufByte k).toNat = n
        (s.maxMsg < s.len → exec .unpadLen s = .next (s.failedWith 6))
          ∧ (s.len = 0 → exec .unpadLen s = .next { s.completed with result := 0 })
          ∧ (0 < s.len → s.len ≤ s.maxMsg → valid →
              exec .unpadLen s = .next { s.completed with result := BitVec.ofNat 32 (s.len - n) })
          ∧ (0 < s.len → s.len ≤ s.maxMsg → ¬valid → exec .unpadLen s = .next { s.completed with result := s.inLen })

/-- Stripping what was padded gives the message's length, the padded length is a multiple of the block size and longer than
the message, and a last byte 0 is never valid padding (R230, R232, R233). -/
def Obligations.UnpadOfPadIsTheLength : Prop :=
  ∀ (data : List Byte) (bs : Nat), 1 ≤ bs → bs ≤ 255 →
    unpadLength (pad data bs) = data.length ∧ (pad data bs).length % bs = 0 ∧ data.length < (pad data bs).length
      ∧ unpadLength (data ++ [0]) = (data ++ [0]).length

/-! ### Modes -/

/-- ENC_ECB: NoKey, then LengthOverflow; otherwise OBUF takes Cipher of every block of the padded message (R251, R252). -/
def Obligations.EncEcbEnciphersPaddedBlocks : Prop :=
  PlainEncoding 0x02 .encEcb
    ∧ ∀ s : State,
        (s.keyValid = false → exec .encEcb s = .next (s.failedWith 5))
          ∧ (s.keyValid = true → s.maxMsg < s.len → exec .encEcb s = .next (s.failedWith 6))
          ∧ (s.keyValid = true → s.len ≤ s.maxMsg →
              ∃ t, exec .encEcb s = .next t
                ∧ Outputs s t (16 * (s.len / 16 + 1)) fun k =>
                    byteOf (cipher s.ks s.nr.toNat (paddedBlock s (k / 16))) k)

/-- DEC_ECB: NoKey, LengthOverflow, IrregularDecryptLength in that order; then every block of IBUF is deciphered and the
padding stripped, or PaddingError with nothing written (R253, R254). -/
def Obligations.DecEcbDeciphersAndStrips : Prop :=
  PlainEncoding 0x03 .decEcb
    ∧ ∀ s : State,
        (s.keyValid = false → exec .decEcb s = .next (s.failedWith 5))
          ∧ (s.keyValid = true → s.maxMsg < s.len → exec .decEcb s = .next (s.failedWith 6))
          ∧ (s.keyValid = true → s.len ≤ s.maxMsg → s.len % 16 ≠ 0 → exec .decEcb s = .next (s.failedWith 2))
          ∧ (s.keyValid = true → s.len ≤ s.maxMsg → s.len % 16 = 0 → DecryptEnds .decEcb s (ecbPlain s))

/-- ENC_CBC: NoKey, LengthOverflow, WrongSizeIv in that order; then output block `j` is Cipher of padded block `j` XOR the
output block before it, or IV for the first (R255, R256). -/
def Obligations.EncCbcChainsCiphertextBlocks : Prop :=
  PlainEncoding 0x04 .encCbc
    ∧ ∀ s : State,
        (s.keyValid = false → exec .encCbc s = .next (s.failedWith 5))
          ∧ (s.keyValid = true → s.maxMsg < s.len → exec .encCbc s = .next (s.failedWith 6))
          ∧ (s.keyValid = true → s.len ≤ s.maxMsg → s.ivLen.toNat ≠ 16 → exec .encCbc s = .next (s.failedWith 3))
          ∧ (s.keyValid = true → s.len ≤ s.maxMsg → s.ivLen.toNat = 16 →
              ∃ t, exec .encCbc s = .next t ∧ Outputs s t (16 * (s.len / 16 + 1)) t.obufByte
                ∧ ∀ j, j < s.len / 16 + 1 →
                    outBlock t j = cipher s.ks s.nr.toNat (Vector.ofFn fun i : Fin 16 =>
                      (paddedBlock s j)[i] ^^^ (if j = 0 then s.iv[i] else (outBlock t (j - 1))[i])))

/-- DEC_CBC: NoKey, LengthOverflow, WrongSizeIv, IrregularDecryptLength in that order; then every block of IBUF is deciphered
and XORed with the block before it, or IV, and the padding stripped, or PaddingError (R257, R260). -/
def Obligations.DecCbcUnchainsAndStrips : Prop :=
  PlainEncoding 0x05 .decCbc
    ∧ ∀ s : State,
        (s.keyValid = false → exec .decCbc s = .next (s.failedWith 5))
          ∧ (s.keyValid = true → s.maxMsg < s.len → exec .decCbc s = .next (s.failedWith 6))
          ∧ (s.keyValid = true → s.len ≤ s.maxMsg → s.ivLen.toNat ≠ 16 → exec .decCbc s = .next (s.failedWith 3))
          ∧ (s.keyValid = true → s.len ≤ s.maxMsg → s.ivLen.toNat = 16 → s.len % 16 ≠ 0 →
              exec .decCbc s = .next (s.failedWith 2))
          ∧ (s.keyValid = true → s.len ≤ s.maxMsg → s.ivLen.toNat = 16 → s.len % 16 = 0 →
              DecryptEnds .decCbc s (cbcPlain s))

/-- CTR_XFORM: NoKey, then LengthOverflow; otherwise byte `k` of OBUF is byte `k` of IBUF XOR keystream byte `k`, from
counter 0, and the counter block is nonce then counter, each least significant byte first (R264, R265, R266). -/
def Obligations.CtrXformXorsKeystream : Prop :=
  PlainEncoding 0x06 .ctrXform
    ∧ (∀ (n i : U64) (j : Fin 8),
        (ctrBlock n i)[j.val]'(by omega) = (n >>> (8 * j.val)).setWidth 8
          ∧ (ctrBlock n i)[8 + j.val]'(by omega) = (i >>> (8 * j.val)).setWidth 8)
    ∧ ∀ s : State,
        (s.keyValid = false → exec .ctrXform s = .next (s.failedWith 5))
          ∧ (s.keyValid = true → s.maxMsg < s.len → exec .ctrXform s = .next (s.failedWith 6))
          ∧ (s.keyValid = true → s.len ≤ s.maxMsg →
              ∃ t, exec .ctrXform s = .next t
                ∧ Outputs s t s.len fun k => s.ibufByte k ^^^ streamByte s s.hostNonce k)

/-- The ECB round trip on the hardware: a message of at most MAX_MSG - 16 bytes, encrypted, its output copied to IBUF with
IN_LEN = OUT_LEN, decrypts under the same schedule with ERR = 0 to the message (R261). The premise that MAX_MSG is legal holds
in every state that `StepKeepsTheInvariant` covers. -/
def Obligations.EcbRoundTrip : Prop :=
  ∀ (s t u : State), legalMaxMsg s.maxMsg = true → s.keyValid = true → s.len + 16 ≤ s.maxMsg →
    exec .encEcb s = .next t →
    u.keyValid = true → u.ks = s.ks → u.nr = s.nr → u.maxMsg = s.maxMsg → u.inLen = t.outLen →
    (∀ k, k < t.outLen.toNat → u.ibufByte k = t.obufByte k) →
    t.err = 0 ∧ ∃ v, exec .decEcb u = .next v ∧ v.err = 0 ∧ v.outLen = s.inLen
      ∧ ∀ k, k < s.len → v.obufByte k = s.ibufByte k

/-- The CBC round trip on the hardware, as `EcbRoundTrip`, with IV_LEN = 16 and the same IV (R261). -/
def Obligations.CbcRoundTrip : Prop :=
  ∀ (s t u : State), legalMaxMsg s.maxMsg = true → s.keyValid = true → s.len + 16 ≤ s.maxMsg → s.ivLen = 16 →
    exec .encCbc s = .next t →
    u.keyValid = true → u.ks = s.ks → u.nr = s.nr → u.maxMsg = s.maxMsg → u.inLen = t.outLen → u.ivLen = 16 → u.iv = s.iv →
    (∀ k, k < t.outLen.toNat → u.ibufByte k = t.obufByte k) →
    t.err = 0 ∧ ∃ v, exec .decCbc u = .next v ∧ v.err = 0 ∧ v.outLen = s.inLen
      ∧ ∀ k, k < s.len → v.obufByte k = s.ibufByte k

/-- CTR_XFORM of its own output with the same key and nonce gives the message back (R268). -/
def Obligations.CtrXformIsItsOwnInverse : Prop :=
  ∀ (s t u : State), s.keyValid = true → s.len ≤ s.maxMsg → exec .ctrXform s = .next t →
    u.keyValid = true → u.ks = s.ks → u.nr = s.nr → u.maxMsg = s.maxMsg → u.inLen = t.outLen →
    u.nonceLo = s.nonceLo → u.nonceHi = s.nonceHi → (∀ k, k < t.outLen.toNat → u.ibufByte k = t.obufByte k) →
    t.err = 0 ∧ ∃ v, exec .ctrXform u = .next v ∧ v.err = 0 ∧ v.outLen = s.inLen
      ∧ ∀ k, k < s.len → v.obufByte k = s.ibufByte k

/-! ### The keystream cursor -/

/-- KS_RESET: NoKey changes nothing of the cursor; otherwise the nonce is latched, counter and index are 0 and KS_VALID = 1
(R270). -/
def Obligations.KsResetStartsTheCursor : Prop :=
  PlainEncoding 0x07 .ksReset
    ∧ ∀ s : State,
        (s.keyValid = false → exec .ksReset s = .next (s.failedWith 5))
          ∧ (s.keyValid = true → exec .ksReset s = .next { s.completed with
              ksNonce := s.hostNonce, ksCtr := 0, ksIdx := 0, ksValid := true })

/-- KS_READ: NoKey without a keystream, then LengthOverflow; otherwise OBUF takes the next IN_LEN bytes of the latched nonce's
keystream from where the cursor stands, and the cursor moves that far, modulo 2^68 (R271, R273). -/
def Obligations.KsReadOutputsTheNextBytes : Prop :=
  PlainEncoding 0x08 .ksRead
    ∧ ∀ s : State,
        (s.ksValid = false → exec .ksRead s = .next (s.failedWith 5))
          ∧ (s.ksValid = true → s.maxMsg < s.len → exec .ksRead s = .next (s.failedWith 6))
          ∧ (s.ksValid = true → s.len ≤ s.maxMsg →
              ∃ t, exec .ksRead s = .next t ∧ t.cursor = (s.cursor + s.len) % 2 ^ 68
                ∧ Outputs { s with ksCtr := t.ksCtr, ksIdx := t.ksIdx } t s.len fun k =>
                    streamByte s s.ksNonce (s.cursor + k))

/-- KS_NEXT: NoKey without a keystream; otherwise RESULT is the keystream byte where the cursor stands and the cursor moves by
one, the counter wrapping modulo 2^64 (R272, R273, R267). -/
def Obligations.KsNextGivesOneByte : Prop :=
  PlainEncoding 0x09 .ksNext
    ∧ ∀ s : State,
        (s.ksValid = false → exec .ksNext s = .next (s.failedWith 5))
          ∧ (s.ksValid = true → exec .ksNext s = .next { s.completed with
              result := (streamByte s s.ksNonce s.cursor).setWidth 32
              ksIdx := if s.ksIdx.toNat = 15 then 0 else s.ksIdx + 1
              ksCtr := if s.ksIdx.toNat = 15 then s.ksCtr + 1 else s.ksCtr })

/-- KS_READ of `a` bytes and then of `b` bytes gives the bytes of one KS_READ of `a + b` and leaves the same cursor (R271's
corner case). -/
def Obligations.KsReadSplits : Prop :=
  ∀ (s t u v : State) (a b : Word), s.ksValid = true → a.toNat + b.toNat ≤ s.maxMsg → a.toNat + b.toNat < 2 ^ 32 →
    exec .ksRead { s with inLen := a } = .next t → exec .ksRead { t with inLen := b } = .next u →
    exec .ksRead { s with inLen := a + b } = .next v →
    (∀ k, k < a.toNat → t.obufByte k = v.obufByte k) ∧ (∀ k, k < b.toNat → u.obufByte k = v.obufByte (a.toNat + k))
      ∧ u.ksCtr = v.ksCtr ∧ u.ksIdx = v.ksIdx ∧ t.err = 0 ∧ u.err = 0 ∧ v.err = 0

/-- The keystream's life (R274, R41, R166): MAKE_KEY always ends it, only KS_RESET starts it, no other command touches
KS_VALID; and while it runs no command but MAKE_KEY changes the schedule or the latched nonce, KS_RESET aside. -/
def Obligations.KeystreamLivesUnderOneKey : Prop :=
  ∀ (i : Instr) (s t : State), exec i s = .next t →
    (i = .makeKey → t.ksValid = false)
      ∧ (i ≠ .makeKey → i ≠ .ksReset → t.ksValid = s.ksValid ∧ t.ksNonce = s.ksNonce)
      ∧ (i = .ksReset → t.ksValid = (s.keyValid || s.ksValid))
      ∧ (i ≠ .makeKey → t.ks = s.ks ∧ t.nr = s.nr ∧ t.keyValid = s.keyValid)

/-! ### Errors -/

/-- Every command reports the first error that applies in R310's order, 0 when none does (R310, R311). -/
def Obligations.CommandReportsTheFirstError : Prop :=
  ∀ (i : Instr) (s t : State), exec i s = .next t → t.err = firstError i s

/-- A failing command changes only ERR, OUT_LEN, RESULT and its completion flags; MAKE_KEY also clears KEY_VALID, NR and
KS_VALID, unless its word failed decoding (R312, R313). -/
def Obligations.FailuresArePrecise : Prop :=
  (∀ (i : Instr) (s t : State), exec i s = .next t → t.err ≠ 0 →
      (i ≠ .makeKey → t = s.failedWith t.err)
        ∧ (i = .makeKey → t = { s.failedWith 1 with ksValid := false, keyValid := false, nr := 0 }))
    ∧ ∀ (w : Word) (s : State) (e : DecodeError), decode w = .error e → execute w s = .next (s.failedWith 7)

/-- What no command writes, and which commands alone write the rest (30_encoding.md R103, 10_state.md R28, R30, R31, R32, R35,
R36, R37, R39, R40, 41_key_schedule.md R166): the inputs, KEY, IV, IBUF, IRQ_EN and the model's own fields are written by none. -/
def Obligations.CommandsWriteOnlyTheirOutputs : Prop :=
  ∀ (i : Instr) (s t : State), exec i s = .next t →
    (t.maxMsg = s.maxMsg ∧ t.irqEn = s.irqEn ∧ t.keyLen = s.keyLen ∧ t.ivLen = s.ivLen ∧ t.inLen = s.inLen
        ∧ t.nonceLo = s.nonceLo ∧ t.nonceHi = s.nonceHi ∧ t.opa = s.opa ∧ t.opb = s.opb ∧ t.key = s.key ∧ t.iv = s.iv
        ∧ t.ibuf = s.ibuf ∧ t.pending = s.pending ∧ t.readData = s.readData ∧ t.draws = s.draws)
      ∧ (i ≠ .makeKey → t.ks = s.ks ∧ t.nr = s.nr ∧ t.keyValid = s.keyValid)
      ∧ (i ≠ .ksReset → i ≠ .ksRead → i ≠ .ksNext → t.ksCtr = s.ksCtr ∧ t.ksIdx = s.ksIdx)
      ∧ (i ≠ .ksReset → t.ksNonce = s.ksNonce)
      ∧ (i ∉ [.cipher, .invCipher, .subBytes, .invSubBytes, .shiftRows, .invShiftRows, .mixColumns, .invMixColumns]
          → (∀ r, i ≠ .addRoundKey r) → t.block = s.block)
      ∧ (i ∉ [.encEcb, .decEcb, .encCbc, .decCbc, .ctrXform, .ksRead] → (∀ bs, i ≠ .pad bs) →
          t.obuf = s.obuf ∧ (t.err = 0 → t.outLen = s.outLen))
      ∧ (i ∉ [.gfMul, .xtime, .sbox, .invSbox, .ksNext, .unpadLen] → (∀ j, i ≠ .rcon j) → t.err = 0 → t.result = s.result)
      ∧ ∀ a, a < obufBase ∨ obufBase + s.maxMsg + 16 ≤ a → t.obuf.read a = s.obuf.read a

/-! ### Invariants -/

/-- The reset state meets the invariant (10_state.md R23, R48; MAX_MSG = 4096 is the model's choice, log 1). -/
def Obligations.ResetMeetsTheInvariant : Prop := State.reset.Inv

/-- Every step keeps the invariant: KEY_VALID = 0 exactly when NR = 0, KS_VALID implies KEY_VALID, BUSY implies not DONE (R23),
NR is 0, 10, 12 or 14 (R8), ERR is at most 7 (R300), MAX_MSG is legal (R9), and IBUF and OBUF stay in canonical form inside their
windows (R39, R40). -/
def Obligations.StepKeepsTheInvariant : Prop := ∀ s t : State, s.Inv → step s = .next t → t.Inv

/-- The machine never refuses, and a step stops exactly on an event the spec does not support: a Host access that is not one
aligned word (20_memory.md R73), or a write while BUSY to an offset other than CTRL and STATUS (R350). -/
def Obligations.StepStopsOnlyOnUnsupportedAccess : Prop :=
  ∀ s : State,
    (s.pending = [] → ∃ t, step s = .next t)
      ∧ (∀ e rest, s.pending = e :: rest → ((∃ t, step s = .next t) ↔ supported s e = true))
      ∧ ∀ r, step s ≠ .refused r

/-! ### The Host bus -/

/-- A byte or halfword access, or one at an offset that is not a multiple of 4, is a bus error, read or write, busy or not (R73).
That a write which R350 forbids as well, made while BUSY = 1, is this fault and not the other is the model's choice (log 8). -/
def Obligations.UnsupportedAccessIsABusError : Prop :=
  ∀ (s : State) (size : AccessSize) (off : Offset) (v : Word) (rest : List Event), size ≠ .word ∨ off.toNat % 4 ≠ 0 →
    (s.pending = .read size off :: rest → step s = .fault .busAccessError)
      ∧ (s.pending = .write size off v :: rest → step s = .fault .busAccessError)

/-- While BUSY = 1 an aligned word write to an offset other than CTRL and STATUS faults; one to STATUS or to CTRL has its normal
effect (R350): STATUS bit 1 clears DONE, CTRL sets IRQ_EN, or with SRST = 1 resets every register. -/
def Obligations.WritesWhileBusy : Prop :=
  ∀ (s : State) (off : Offset) (v : Word) (rest : List Event), s.busy = true → off.toNat % 4 = 0 →
    s.pending = .write .word off v :: rest →
    (off ≠ 0x004 → off ≠ 0x008 → step s = .fault .hostWriteWhileBusy)
      ∧ (off = 0x004 → v.getLsbD 1 = false → step s = .next { s with pending := rest, irqEn := v.getLsbD 0 })
      ∧ (off = 0x004 → v.getLsbD 1 = true → ∃ t, step s = .next t
          ∧ t = { State.reset with
              maxMsg := s.maxMsg, key := s.key, iv := s.iv, ibuf := s.ibuf, block := t.block, obuf := t.obuf, ks := t.ks
              pending := rest, readData := s.readData, draws := s.draws + 1 })
      ∧ (off = 0x008 → step s = .next { s with pending := rest, done := s.done && !v.getLsbD 1 })

/-- While BUSY = 1 an aligned word read of ID, CTRL or STATUS returns its value, a read of any other offset returns a free value,
and neither changes any state of AESCORE (R351; the draw counter is the model's own, log 7). -/
def Obligations.ReadsWhileBusy : Prop :=
  ∀ (s : State) (off : Offset) (rest : List Event), s.busy = true → off.toNat % 4 = 0 →
    s.pending = .read .word off :: rest →
    (off = 0x000 ∨ off = 0x004 ∨ off = 0x008 →
        step s = .next { s with pending := rest, readData := hostRead s off })
      ∧ (off ≠ 0x000 → off ≠ 0x004 → off ≠ 0x008 →
          step s = .next { s with pending := rest, readData := Config.busyRead s.draws, draws := s.draws + 1 })

/-- What the registers read as in an idle machine (R21 to R33): each its own field zero-extended, CMD 0. -/
def Obligations.RegisterReads : Prop :=
  ReadsAs 0x000 (fun _ => 0x41455331) ∧ ReadsAs 0x004 (fun s => if s.irqEn then 1 else 0) ∧ ReadsAs 0x00C (fun _ => 0)
    ∧ ReadsAs 0x010 (fun s => s.keyLen.setWidth 32) ∧ ReadsAs 0x014 (fun s => s.ivLen.setWidth 32)
    ∧ ReadsAs 0x018 (fun s => s.inLen) ∧ ReadsAs 0x01C (fun s => s.outLen) ∧ ReadsAs 0x020 (fun s => s.nonceLo)
    ∧ ReadsAs 0x024 (fun s => s.nonceHi) ∧ ReadsAs 0x028 (fun s => s.ksCtr.setWidth 32)
    ∧ ReadsAs 0x02C (fun s => (s.ksCtr >>> 32).setWidth 32) ∧ ReadsAs 0x030 (fun s => s.ksIdx.setWidth 32)
    ∧ ReadsAs 0x034 (fun s => s.result) ∧ ReadsAs 0x038 (fun s => s.opa.setWidth 32)
    ∧ ReadsAs 0x03C (fun s => s.opb.setWidth 32)

/-- STATUS reads, busy or not, as BUSY [0], DONE [1], KEY_VALID [2], KS_VALID [3], ERR [7:4], NR [11:8] and zeros (R23). -/
def Obligations.StatusReadsItsFields : Prop :=
  ∀ (s : State) (rest : List Event), s.pending = .read .word 0x008 :: rest →
    ∃ w : Word, step s = .next { s with pending := rest, readData := w }
      ∧ w.getLsbD 0 = s.busy ∧ w.getLsbD 1 = s.done ∧ w.getLsbD 2 = s.keyValid ∧ w.getLsbD 3 = s.ksValid
      ∧ w.extractLsb' 4 4 = s.err ∧ w.extractLsb' 8 4 = s.nr ∧ w.extractLsb' 12 20 = 0

/-- What writes to the registers do in an idle machine (R21 to R33): each writable field takes its own bits and nothing else
changes, read-only registers ignore the write, STATUS bit 1 clears DONE, CTRL with SRST = 0 sets IRQ_EN. -/
def Obligations.RegisterWrites : Prop :=
  WritesTo 0x010 (fun s v => { s with keyLen := v.setWidth 8 }) ∧ WritesTo 0x014 (fun s v => { s with ivLen := v.setWidth 8 })
    ∧ WritesTo 0x018 (fun s v => { s with inLen := v }) ∧ WritesTo 0x020 (fun s v => { s with nonceLo := v })
    ∧ WritesTo 0x024 (fun s v => { s with nonceHi := v }) ∧ WritesTo 0x038 (fun s v => { s with opa := v.setWidth 8 })
    ∧ WritesTo 0x03C (fun s v => { s with opb := v.setWidth 8 })
    ∧ (∀ off : Offset, off = 0x000 ∨ off = 0x01C ∨ off = 0x028 ∨ off = 0x02C ∨ off = 0x030 ∨ off = 0x034 →
        WritesTo off (fun s _ => s))
    ∧ WritesTo 0x008 (fun s v => { s with done := s.done && !v.getLsbD 1 })
    ∧ ∀ (s : State) (v : Word) (rest : List Event), s.running = none → s.pending = .write .word 0x004 v :: rest →
        v.getLsbD 1 = false → step s = .next { s with pending := rest, irqEn := v.getLsbD 0 }

/-- The KEY, IV and STATE windows have little-endian byte lanes: a word write at window offset `4k` sets bytes `4k` to `4k+3` and
no other byte, and a word read returns them (R35, R36, R37, R76). -/
def Obligations.SmallBufferWindowLanes : Prop :=
  (∀ k, k < 8 →
      WritesTo (BitVec.ofNat 18 (0x40 + 4 * k)) (fun s v =>
          { s with key := Vector.ofFn fun i => if i.val / 4 = k then (v >>> (8 * (i.val % 4))).setWidth 8 else s.key[i] })
        ∧ ∀ (s : State) (rest : List Event) (h : 4 * k + 3 < 32), s.running = none →
            s.pending = .read .word (BitVec.ofNat 18 (0x40 + 4 * k)) :: rest →
            step s = .next { s with
              pending := rest, readData := s.key[4 * k + 3] ++ s.key[4 * k + 2] ++ s.key[4 * k + 1] ++ s.key[4 * k] })
    ∧ ∀ k, k < 4 →
        WritesTo (BitVec.ofNat 18 (0x60 + 4 * k)) (fun s v =>
            { s with iv := Vector.ofFn fun i => if i.val / 4 = k then (v >>> (8 * (i.val % 4))).setWidth 8 else s.iv[i] })
          ∧ WritesTo (BitVec.ofNat 18 (0x70 + 4 * k)) (fun s v =>
            { s with
              block := Vector.ofFn fun i => if i.val / 4 = k then (v >>> (8 * (i.val % 4))).setWidth 8 else s.block[i] })
          ∧ ∀ (s : State) (rest : List Event) (h : 4 * k + 3 < 16), s.running = none →
              (s.pending = .read .word (BitVec.ofNat 18 (0x60 + 4 * k)) :: rest →
                  step s = .next { s with
                    pending := rest, readData := s.iv[4 * k + 3] ++ s.iv[4 * k + 2] ++ s.iv[4 * k + 1] ++ s.iv[4 * k] })
                ∧ (s.pending = .read .word (BitVec.ofNat 18 (0x70 + 4 * k)) :: rest →
                  step s = .next { s with
                    pending := rest
                    readData := s.block[4 * k + 3] ++ s.block[4 * k + 2] ++ s.block[4 * k + 1] ++ s.block[4 * k] })

/-- The IBUF and OBUF windows below their capacity have little-endian byte lanes: a word write at window offset `4k` sets bytes
`4k` to `4k+3` and keeps every other byte of the buffer and all other state, and a word read returns them (R39, R40, R76). -/
def Obligations.MessageBufferWindowLanes : Prop :=
  ∀ (s : State) (k : Nat) (rest : List Event), s.running = none → 4 * k + 3 < 0x10000 →
    (4 * k + 3 < s.maxMsg →
        (∀ v : Word, s.pending = .write .word (BitVec.ofNat 18 (0x10000 + 4 * k)) v :: rest →
            ∃ t, step s = .next t ∧ t = { s with pending := rest, ibuf := t.ibuf }
              ∧ (∀ j, j < 4 → t.ibufByte (4 * k + j) = (v >>> (8 * j)).setWidth 8)
              ∧ ∀ a, a < 0x10000 + 4 * k ∨ 0x10000 + 4 * k + 4 ≤ a → t.ibuf.read a = s.ibuf.read a)
          ∧ (s.pending = .read .word (BitVec.ofNat 18 (0x10000 + 4 * k)) :: rest →
            step s = .next { s with
              pending := rest
              readData := s.ibufByte (4 * k + 3) ++ s.ibufByte (4 * k + 2) ++ s.ibufByte (4 * k + 1) ++ s.ibufByte (4 * k) }))
      ∧ (4 * k + 3 < s.maxMsg + 16 →
        (∀ v : Word, s.pending = .write .word (BitVec.ofNat 18 (0x20000 + 4 * k)) v :: rest →
            ∃ t, step s = .next t ∧ t = { s with pending := rest, obuf := t.obuf }
              ∧ (∀ j, j < 4 → t.obufByte (4 * k + j) = (v >>> (8 * j)).setWidth 8)
              ∧ ∀ a, a < 0x20000 + 4 * k ∨ 0x20000 + 4 * k + 4 ≤ a → t.obuf.read a = s.obuf.read a)
          ∧ (s.pending = .read .word (BitVec.ofNat 18 (0x20000 + 4 * k)) :: rest →
            step s = .next { s with
              pending := rest
              readData := s.obufByte (4 * k + 3) ++ s.obufByte (4 * k + 2) ++ s.obufByte (4 * k + 1) ++ s.obufByte (4 * k) }))

/-- KSW word `i` reads `KS[i]` while KEY_VALID = 1 and `i < 4*(NR+1)`, and 0 otherwise; writes to it are ignored (R41). -/
def Obligations.KeyScheduleWindow : Prop :=
  ∀ (i : Nat) (h : i < 60),
    ReadsAs (BitVec.ofNat 18 (0x100 + 4 * i)) (fun s =>
        if s.keyValid = true ∧ i < 4 * (s.nr.toNat + 1) then s.ks[i] else 0)
      ∧ WritesTo (BitVec.ofNat 18 (0x100 + 4 * i)) (fun s _ => s)

/-- Reserved offsets and the tails of the IBUF and OBUF windows read 0 and ignore writes (R34, R39, R40, R74). -/
def Obligations.ReservedOffsetsReadZero : Prop :=
  ∀ (off : Offset) (s : State) (v : Word) (rest : List Event), off.toNat % 4 = 0 → s.running = none →
    (0x80 ≤ off.toNat ∧ off.toNat < 0x100) ∨ (0x1F0 ≤ off.toNat ∧ off.toNat < 0x10000)
      ∨ (0x10000 + s.maxMsg ≤ off.toNat ∧ 0x10000 ≤ off.toNat ∧ off.toNat < 0x20000)
      ∨ (0x20000 + s.maxMsg + 16 ≤ off.toNat ∧ off.toNat < 0x30000) ∨ 0x30000 ≤ off.toNat →
    (s.pending = .read .word off :: rest → step s = .next { s with pending := rest, readData := 0 })
      ∧ (s.pending = .write .word off v :: rest → step s = .next { s with pending := rest })

/-! ### Resets -/

/-- Soft reset by a CTRL write with bit 1 set, at any time: every register takes its reset value; when idle the buffers and KS are
kept; while BUSY the command is abandoned, KEY, IV and IBUF are kept and STATE, OBUF and KS are free values (R22, R341, R342). -/
def Obligations.SoftResetClearsRegisters : Prop :=
  ∀ (s : State) (v : Word) (rest : List Event), s.pending = .write .word 0x004 v :: rest → v.getLsbD 1 = true →
    ∃ t, step s = .next t
      ∧ t = { State.reset with
          maxMsg := s.maxMsg, key := s.key, iv := s.iv, ibuf := s.ibuf, block := t.block, obuf := t.obuf, ks := t.ks
          pending := rest, readData := s.readData, draws := t.draws }
      ∧ t.irq = false
      ∧ (s.busy = false → t.block = s.block ∧ t.obuf = s.obuf ∧ t.ks = s.ks ∧ t.draws = s.draws)
      ∧ (s.busy = true →
          (∀ i : Fin 16, t.block[i] = Config.powerOnByte s.draws (0x70 + i.val))
            ∧ (∀ k, t.obufByte k = Config.powerOnByte s.draws (0x20000 + k))
            ∧ (∀ i : Fin 60, t.ks[i] = Config.powerOnWord s.draws i.val) ∧ t.draws = s.draws + 1)

/-- Hard reset: every register takes its reset value, a running command is abandoned, and KEY, IV, STATE, IBUF, OBUF and KS are
free values (R48, R49, R340; the events and the draw counter are the model's own, log 11). -/
def Obligations.HardResetClearsEverything : Prop :=
  ∀ (s : State) (rest : List Event), s.pending = .hardReset :: rest →
    ∃ t, step s = .next t
      ∧ t = { State.reset with
          maxMsg := s.maxMsg, key := t.key, iv := t.iv, block := t.block, ibuf := t.ibuf, obuf := t.obuf, ks := t.ks
          pending := rest, readData := s.readData, draws := s.draws + 1 }
      ∧ t.busy = false ∧ t.irq = false
      ∧ (∀ i : Fin 32, t.key[i] = Config.powerOnByte s.draws (0x40 + i.val))
      ∧ (∀ i : Fin 16, t.iv[i] = Config.powerOnByte s.draws (0x60 + i.val)
          ∧ t.block[i] = Config.powerOnByte s.draws (0x70 + i.val))
      ∧ (∀ k, t.ibufByte k = Config.powerOnByte s.draws (0x10000 + k)
          ∧ t.obufByte k = Config.powerOnByte s.draws (0x20000 + k))
      ∧ ∀ i : Fin 60, t.ks[i] = Config.powerOnWord s.draws i.val

/-- The reset state: every register 0, no key, no keystream, nothing running and IRQ = 0, and STATUS reads 0 (R48). -/
def Obligations.ResetRegistersAreZero : Prop :=
  let s := State.reset
  s.irqEn = false ∧ s.done = false ∧ s.busy = false ∧ s.keyValid = false ∧ s.ksValid = false ∧ s.err = 0 ∧ s.nr = 0
    ∧ s.keyLen = 0 ∧ s.ivLen = 0 ∧ s.inLen = 0 ∧ s.outLen = 0 ∧ s.nonceLo = 0 ∧ s.nonceHi = 0 ∧ s.ksCtr = 0 ∧ s.ksIdx = 0
    ∧ s.ksNonce = 0 ∧ s.result = 0 ∧ s.opa = 0 ∧ s.opb = 0 ∧ s.irq = false ∧ statusWord s = 0 ∧ ctrlWord s = 0
end

