-- ==== Sys2Proof/Laws/Blocks.lean ====
section
/-! SUPPORT. Byte sequences and their blocks: lengths, and each byte of a concatenation, of the message, and of the CBC and CTR
transforms. -/

namespace Sys2Proof.Machine

@[simp] theorem ofBlocks_length (bs : List Block) : (ofBlocks bs).length = 16 * bs.length := by
  induction bs with
  | nil => rfl
  | cons b bs ih =>
    simp only [ofBlocks, List.flatMap_cons, List.length_append, Vector.length_toList, List.length_cons] at *
    omega

/-- Byte `k` of a concatenation of blocks is byte `k mod 16` of block `k / 16`. -/
theorem ofBlocks_getElem (bs : List Block) (k : Nat) (h : k < (ofBlocks bs).length) :
    (ofBlocks bs)[k] = (bs[k / 16]'(by rw [ofBlocks_length] at h; omega))[k % 16]'(by omega) := by
  induction bs generalizing k with
  | nil => exact absurd h (by simp [ofBlocks])
  | cons b bs ih =>
    have hl := h
    rw [ofBlocks_length, List.length_cons] at hl
    have e : ofBlocks (b :: bs) = b.toList ++ ofBlocks bs := by simp [ofBlocks]
    simp only [e]
    by_cases hk : k < 16
    · rw [List.getElem_append_left (by simpa using hk)]
      have h0 : k / 16 = 0 := by omega
      have h1 : k % 16 = k := by omega
      simp only [h0, List.getElem_cons_zero, h1]
      simp
    · rw [List.getElem_append_right (by simpa using hk)]
      have h0 : k / 16 = (k - 16) / 16 + 1 := by omega
      have h1 : (k - 16) % 16 = k % 16 := by omega
      simp only [Vector.length_toList]
      rw [ih _ (by rw [ofBlocks_length]; omega)]
      simp only [h0, List.getElem_cons_succ, h1]

@[simp] theorem toBlocks_length (data : List Byte) : (toBlocks data).length = data.length / 16 := by simp [toBlocks]

@[simp] theorem toBlocks_getElem (data : List Byte) (j : Nat) (h : j < (toBlocks data).length) :
    (toBlocks data)[j] = blockAt data j := by simp [toBlocks]

@[simp] theorem message_length (s : State) : s.message.length = s.inLen.toNat := by simp [State.message, State.inCount]

@[simp] theorem message_getElem (s : State) (k : Nat) (h : k < s.message.length) : s.message[k] = s.ibufByte k := by
  simp [State.message]

/-- Block `j` of a byte sequence that has it. -/
theorem blockAt_getElem (data : List Byte) (j i : Nat) (hi : i < 16) (h : 16 * j + i < data.length) :
    (blockAt data j)[i] = data[16 * j + i] := by
  simp [blockAt, h]

@[simp] theorem pad_length (data : List Byte) (bs : Nat) : (pad data bs).length = data.length + padCount data.length bs := by
  simp [pad]

@[simp] theorem cbcEncryptBlocks_length (E : Block → Block) (prev : Block) (bs : List Block) :
    (cbcEncryptBlocks E prev bs).length = bs.length := by
  induction bs generalizing prev with
  | nil => rfl
  | cons b bs ih => simp [cbcEncryptBlocks, ih]

@[simp] theorem cbcDecryptBlocks_length (D : Block → Block) (prev : Block) (bs : List Block) :
    (cbcDecryptBlocks D prev bs).length = bs.length := by
  induction bs generalizing prev with
  | nil => rfl
  | cons b bs ih => simp [cbcDecryptBlocks, ih]

@[simp] theorem ctrFrom_length (E : Block → Block) (n : U64) (k : Nat) (m : List Byte) : (ctrFrom E n k m).length = m.length := by
  induction m generalizing k with
  | nil => rfl
  | cons b m ih => simp [ctrFrom, ih]

/-- Byte `j` of the CTR transform (45_modes.md R264, R266). -/
theorem ctrFrom_getElem (E : Block → Block) (n : U64) (k : Nat) (m : List Byte) (j : Nat) (h : j < m.length) :
    (ctrFrom E n k m)[j]'(by simpa using h) = m[j] ^^^ ksByte E n (k + j) := by
  induction m generalizing k j with
  | nil => exact absurd h (by simp)
  | cons b m ih =>
    cases j with
    | zero => rfl
    | succ j =>
      simp only [ctrFrom, List.getElem_cons_succ]
      rw [ih _ _ (by simpa using h), show k + 1 + j = k + (j + 1) by omega]

end Sys2Proof.Machine
end

