-- ==== Sys2Proof/Laws/Bus.lean ====
section
/-! SUPPORT. The Host bus: what a step does on a supported read and write, and the rows of the address map the windows stand in
(20_memory.md R71 to R74). -/

namespace Sys2Proof.Machine

theorem legalAccess_word {off : Offset} (h : off.toNat % 4 = 0) : legalAccess .word off = true := by simp [legalAccess, h]

/-- A word read while idle (R71). -/
theorem step_read_idle {s : State} {off : Offset} {rest : List Event} (ha : off.toNat % 4 = 0) (hr : s.running = none)
    (hp : s.pending = .read .word off :: rest) :
    step s = .next { s with pending := rest, readData := hostRead { s with pending := rest } off } := by
  have hb : ({ s with pending := rest } : State).busy = false := by simp [State.busy, hr]
  simp only [step, hp, happen, busRead, legalAccess_word ha, hb]
  rfl

/-- A word write while idle (R72). -/
theorem step_write_idle {s : State} {off : Offset} {v : Word} {rest : List Event} (ha : off.toNat % 4 = 0)
    (hr : s.running = none) (hp : s.pending = .write .word off v :: rest) :
    step s = .next (hostWrite { s with pending := rest } off v) := by
  have hb : ({ s with pending := rest } : State).busy = false := by simp [State.busy, hr]
  simp only [step, hp, happen, busWrite, legalAccess_word ha, hb]
  rfl

/-- Reading depends on no field of the model's own. -/
theorem hostRead_pending (s : State) (rest : List Event) (off : Offset) : hostRead { s with pending := rest } off = hostRead s off :=
  rfl

theorem offset_toNat {n : Nat} (h : n < 0x40000) : (BitVec.ofNat 18 n).toNat = n := by simp; omega

/-! The row a window offset is in (R74): the bounds of R74 leave one row, and the offset in it is what the row holds. -/

theorem regionOf_keyWin {k : Nat} (h : k < 0x20) : regionOf (BitVec.ofNat 18 (0x40 + k)) = .keyWin k := by
  have hn := offset_toNat (n := 0x40 + k) (by omega)
  simp (disch := omega) only [regionOf, hn, if_pos, if_neg, Nat.add_sub_cancel_left]

theorem regionOf_ivWin {k : Nat} (h : k < 0x10) : regionOf (BitVec.ofNat 18 (0x60 + k)) = .ivWin k := by
  have hn := offset_toNat (n := 0x60 + k) (by omega)
  simp (disch := omega) only [regionOf, hn, if_pos, if_neg, Nat.add_sub_cancel_left]

theorem regionOf_blockWin {k : Nat} (h : k < 0x10) : regionOf (BitVec.ofNat 18 (0x70 + k)) = .blockWin k := by
  have hn := offset_toNat (n := 0x70 + k) (by omega)
  simp (disch := omega) only [regionOf, hn, if_pos, if_neg, Nat.add_sub_cancel_left]

theorem regionOf_ksw {i : Nat} (h : i < 60) : regionOf (BitVec.ofNat 18 (0x100 + 4 * i)) = .ksw i := by
  have hn := offset_toNat (n := 0x100 + 4 * i) (by omega)
  simp (disch := omega) only [regionOf, hn, if_pos, if_neg, Nat.add_sub_cancel_left, Nat.mul_div_cancel_left]

theorem regionOf_ibufWin {k : Nat} (h : k < 0x10000) : regionOf (BitVec.ofNat 18 (0x10000 + k)) = .ibufWin k := by
  have hn := offset_toNat (n := 0x10000 + k) (by omega)
  simp (disch := omega) only [regionOf, hn, if_pos, if_neg, Nat.add_sub_cancel_left]

theorem regionOf_obufWin {k : Nat} (h : k < 0x10000) : regionOf (BitVec.ofNat 18 (0x20000 + k)) = .obufWin k := by
  have hn := offset_toNat (n := 0x20000 + k) (by omega)
  simp (disch := omega) only [regionOf, hn, if_pos, if_neg, Nat.add_sub_cancel_left]

end Sys2Proof.Machine
end

