-- ==== Sys2Proof/Laws/Bytes.lean ====
section
/-! SUPPORT. The byte orders: lanes of a word and the word of four lanes undo each other (20_memory.md R76, 41_key_schedule.md
R161). -/

namespace Sys2Proof.Machine

/-- The lane word is the concatenation of its bytes, the last one most significant. -/
theorem wordOfLanes_eq_append (b0 b1 b2 b3 : Byte) : wordOfLanes b0 b1 b2 b3 = b3 ++ b2 ++ b1 ++ b0 := by
  unfold wordOfLanes
  refine BitVec.eq_of_getLsbD_eq fun i hi => ?_
  simp only [BitVec.getLsbD_or, BitVec.getLsbD_setWidth, BitVec.getLsbD_shiftLeft, BitVec.getLsbD_append]
  by_cases h0 : i < 8
  · simp [h0, show i < 16 by omega, show i < 24 by omega, hi]
  · by_cases h1 : i < 16
    · simp [h0, h1, show i < 24 by omega, hi, BitVec.getLsbD_of_ge b0 i (by omega), show i - 8 < 8 by omega,
        show i - 8 < 32 by omega]
    · by_cases h2 : i < 24
      · simp [h0, h1, h2, hi, BitVec.getLsbD_of_ge b0 i (by omega), BitVec.getLsbD_of_ge b1 (i - 8) (by omega),
          show ¬ i - 8 < 8 by omega, show i - 16 < 32 by omega, show i - 16 < 8 by omega, show i - 8 - 8 = i - 16 by omega]
      · simp [h0, h1, h2, hi, BitVec.getLsbD_of_ge b0 i (by omega), BitVec.getLsbD_of_ge b1 (i - 8) (by omega),
          BitVec.getLsbD_of_ge b2 (i - 16) (by omega), show ¬ i - 8 < 8 by omega, show ¬ i - 16 < 8 by omega,
          show i - 24 < 32 by omega, show i - 8 - 8 = i - 16 by omega, show i - 16 - 8 = i - 24 by omega]

theorem lane_eq_shift (w : Word) (j : Nat) : lane w j = (w >>> (8 * j)).setWidth 8 := by
  unfold lane
  ext i hi
  simp

theorem lane_zero (w : Word) : lane w 0 = w.setWidth 8 := by simp [lane_eq_shift]

theorem byteBE_wordBE (b0 b1 b2 b3 : Byte) :
    byteBE (wordBE b0 b1 b2 b3) 0 = b0 ∧ byteBE (wordBE b0 b1 b2 b3) 1 = b1 ∧ byteBE (wordBE b0 b1 b2 b3) 2 = b2
      ∧ byteBE (wordBE b0 b1 b2 b3) 3 = b3 := by
  unfold byteBE wordBE
  rw [wordOfLanes_eq_append]
  refine ⟨?_, ?_, ?_, ?_⟩ <;>
  · ext i hi
    simp only [BitVec.getElem_extractLsb', BitVec.getLsbD_append]
    simp [show i < 8 by omega, show ¬ 24 + i < 8 by omega, show ¬ 16 + i < 8 by omega, show ¬ 8 + i < 8 by omega,
      show ¬ 24 + i - 8 < 8 by omega, show ¬ 24 + i - 8 - 8 < 8 by omega, show ¬ 16 + i - 8 < 8 by omega,
      show 24 + i - 8 - 8 - 8 = i by omega, show 16 + i - 8 - 8 = i by omega, show 8 + i - 8 = i by omega]

end Sys2Proof.Machine
end

