-- ==== Sys2Proof/Laws/Memory.lean ====
section
/-! SUPPORT. The laws of the byte buffers: read after write, what a write leaves alone, and that every operation keeps the
canonical form. -/

namespace Sys2Proof.Machine

/-! ### One byte -/

theorem lookup_insertCell_same (cs : List Host.Cell) (k : Nat) (v : Byte) : lookup (insertCell cs k v) k = some v := by
  induction cs with
  | nil => simp [insertCell, lookup]
  | cons c cs ih =>
    obtain ⟨a, b⟩ := c
    simp only [insertCell]
    split
    · simp [lookup]
    · split
      · simp [lookup]
      · next h => simp [lookup, h, ih]

theorem lookup_insertCell_other (cs : List Host.Cell) {k j : Nat} (v : Byte) (h : j ≠ k) :
    lookup (insertCell cs k v) j = lookup cs j := by
  induction cs with
  | nil => simp [insertCell, lookup, Ne.symm h]
  | cons c cs ih =>
    obtain ⟨a, b⟩ := c
    simp only [insertCell]
    split
    · simp [lookup, Ne.symm h]
    · split
      · next h' => subst h'; simp [lookup, Ne.symm h]
      · simp [lookup, ih]

@[simp] theorem Memory.read_write_same (m : Memory) (k : Nat) (v : Byte) : (m.write k v).read k = v := by
  simp [Memory.read, Memory.write, lookup_insertCell_same]

theorem Memory.read_write_other (m : Memory) {k j : Nat} (v : Byte) (h : j ≠ k) : (m.write k v).read j = m.read j := by
  simp [Memory.read, Memory.write, lookup_insertCell_other _ _ h]

theorem mem_insertCell {cs : List Host.Cell} {k : Nat} {v : Byte} {c : Host.Cell} (h : c ∈ insertCell cs k v) :
    c = (k, v) ∨ c ∈ cs := by
  induction cs with
  | nil => simpa [insertCell] using h
  | cons d cs ih =>
    obtain ⟨a, b⟩ := d
    simp only [insertCell] at h
    split at h
    · simpa using h
    · split at h
      · rcases List.mem_cons.mp h with h | h
        · exact .inl h
        · exact .inr (List.mem_cons_of_mem _ h)
      · rcases List.mem_cons.mp h with h | h
        · exact .inr (h ▸ List.mem_cons_self)
        · exact (ih h).imp id (List.mem_cons_of_mem _)

theorem insertCell_rising {cs : List Host.Cell} (k : Nat) (v : Byte) (h : cs.Pairwise fun c d => c.1 < d.1) :
    (insertCell cs k v).Pairwise fun c d => c.1 < d.1 := by
  induction cs with
  | nil => simp [insertCell]
  | cons d cs ih =>
    obtain ⟨a, b⟩ := d
    obtain ⟨h1, h2⟩ := List.pairwise_cons.mp h
    simp only [insertCell]
    split
    · next hk =>
      refine List.pairwise_cons.mpr ⟨fun c hc => ?_, h⟩
      rcases List.mem_cons.mp hc with rfl | hc
      · exact hk
      · exact Nat.lt_trans hk (h1 c hc)
    · next hk =>
      split
      · next ha => subst ha; exact List.pairwise_cons.mpr ⟨h1, h2⟩
      · next ha =>
        refine List.pairwise_cons.mpr ⟨fun c hc => ?_, ih h2⟩
        rcases mem_insertCell hc with rfl | hc
        · simp only; omega
        · exact h1 c hc

theorem Memory.write_wf {lo hi : Nat} {m : Memory} {k : Nat} (v : Byte) (h : m.wf lo hi) (h1 : lo ≤ k) (h2 : k < hi) :
    (m.write k v).wf lo hi := by
  refine ⟨insertCell_rising k v h.1, fun c hc => ?_⟩
  rcases mem_insertCell hc with rfl | hc
  · exact ⟨h1, h2⟩
  · exact h.2 c hc

/-! ### A byte sequence -/

theorem lookup_append (cs ds : List Host.Cell) (k : Nat) : lookup (cs ++ ds) k = (lookup cs k).or (lookup ds k) := by
  induction cs with
  | nil => simp [lookup]
  | cons c cs ih =>
    obtain ⟨a, b⟩ := c
    simp only [List.cons_append, lookup]
    split <;> simp [ih]

theorem lookup_filter (cs : List Host.Cell) (p : Nat → Bool) (k : Nat) :
    lookup (cs.filter fun c => p c.1) k = if p k then lookup cs k else none := by
  induction cs with
  | nil => simp [lookup]
  | cons c cs ih =>
    obtain ⟨a, b⟩ := c
    rw [List.filter_cons]
    by_cases h : a = k
    · subst h; cases hp : p a <;> simp [lookup, ih, hp]
    · cases hp : p a <;> simp [lookup, ih, h]

theorem lookup_cellsFrom (base : Nat) (bs : List Byte) (k : Nat) :
    lookup (cellsFrom base bs) k = if base ≤ k then bs[k - base]? else none := by
  induction bs generalizing base with
  | nil => simp [cellsFrom, lookup]
  | cons b bs ih =>
    simp only [cellsFrom, lookup, ih]
    by_cases h : base = k
    · subst h; simp
    · by_cases h2 : base ≤ k
      · obtain ⟨d, rfl⟩ : ∃ d, k = base + 1 + d := ⟨k - base - 1, by omega⟩
        rw [if_neg h, if_pos (by omega), if_pos h2, show base + 1 + d - (base + 1) = d by omega,
          show base + 1 + d - base = d + 1 by omega, List.getElem?_cons_succ]
      · rw [if_neg h, if_neg (by omega), if_neg h2]

theorem Memory.lookup_writeSeq (m : Memory) (base : Nat) (bs : List Byte) (k : Nat) :
    lookup (m.writeSeq base bs).cells k =
      if base ≤ k ∧ k < base + bs.length then bs[k - base]? else lookup m.cells k := by
  unfold Memory.writeSeq
  have e1 := lookup_filter m.cells (fun a => decide (a < base)) k
  have e2 := lookup_filter m.cells (fun a => decide (base + bs.length ≤ a)) k
  simp only [decide_eq_true_eq] at e1 e2
  simp only [lookup_append, lookup_cellsFrom, e1, e2]
  by_cases h1 : k < base
  · rw [if_pos h1, if_neg (by omega), if_neg (by omega), if_neg (by omega)]
    cases lookup m.cells k <;> rfl
  · by_cases h2 : base + bs.length ≤ k
    · rw [if_neg h1, if_pos (by omega), if_pos h2, if_neg (by omega), List.getElem?_eq_none (by omega)]
      rfl
    · rw [if_neg h1, if_pos (by omega), if_neg h2, if_pos (by omega)]
      simp

/-- Inside the sequence just written, the sequence's own byte. -/
theorem Memory.read_writeSeq_in (m : Memory) (base : Nat) (bs : List Byte) (k : Nat) (h : k < bs.length) :
    (m.writeSeq base bs).read (base + k) = bs[k] := by
  rw [Memory.read, Memory.lookup_writeSeq, if_pos (by omega), show base + k - base = k by omega, List.getElem?_eq_getElem h]
  rfl

/-- Outside the sequence just written, what was there. -/
theorem Memory.read_writeSeq_out (m : Memory) (base : Nat) (bs : List Byte) (a : Nat) (h : a < base ∨ base + bs.length ≤ a) :
    (m.writeSeq base bs).read a = m.read a := by
  rw [Memory.read, Memory.lookup_writeSeq, if_neg (by omega)]
  rfl

theorem mem_cellsFrom {base : Nat} {bs : List Byte} {c : Host.Cell} (h : c ∈ cellsFrom base bs) :
    base ≤ c.1 ∧ c.1 < base + bs.length := by
  induction bs generalizing base with
  | nil => simp [cellsFrom] at h
  | cons b bs ih =>
    rcases List.mem_cons.mp h with rfl | h
    · simp
    · have := ih h
      simp only [List.length_cons]
      omega

theorem cellsFrom_rising (base : Nat) (bs : List Byte) : (cellsFrom base bs).Pairwise fun c d => c.1 < d.1 := by
  induction bs generalizing base with
  | nil => simp [cellsFrom]
  | cons b bs ih => exact List.pairwise_cons.mpr ⟨fun c hc => (mem_cellsFrom hc).1, ih _⟩

theorem Memory.writeSeq_wf {lo hi : Nat} {m : Memory} {base : Nat} {bs : List Byte} (h : m.wf lo hi) (h1 : lo ≤ base)
    (h2 : base + bs.length ≤ hi) : (m.writeSeq base bs).wf lo hi := by
  have below : ∀ c ∈ m.cells.filter (fun c => decide (c.1 < base)), c.1 < base := fun c hc => by
    simpa using (List.mem_filter.mp hc).2
  have above : ∀ c ∈ m.cells.filter (fun c => decide (base + bs.length ≤ c.1)), base + bs.length ≤ c.1 := fun c hc => by
    simpa using (List.mem_filter.mp hc).2
  refine ⟨?_, fun c hc => ?_⟩
  · refine List.pairwise_append.mpr ⟨h.1.filter _, List.pairwise_append.mpr ⟨cellsFrom_rising base bs, h.1.filter _, ?_⟩, ?_⟩
    · intro c hc d hd
      have := mem_cellsFrom hc
      have := above d hd
      omega
    · intro c hc d hd
      have := below c hc
      rcases List.mem_append.mp hd with hd | hd
      · have := mem_cellsFrom hd
        omega
      · have := above d hd
        omega
  · rcases List.mem_append.mp hc with hc | hc
    · exact h.2 c (List.mem_filter.mp hc).1
    · rcases List.mem_append.mp hc with hc | hc
      · have := mem_cellsFrom hc
        omega
      · exact h.2 c (List.mem_filter.mp hc).1

/-- Memory right after a reset is in canonical form. -/
theorem Memory.empty_wf (lo hi draw : Nat) : ({ cells := [], draw := draw } : Memory).wf lo hi :=
  ⟨List.Pairwise.nil, fun _ hc => nomatch hc⟩

/-! ### The output of a command -/

theorem State.output_byte (s : State) (out : List Byte) (k : Nat) (h : k < out.length) :
    (s.output out).obufByte k = out[k] := s.obuf.read_writeSeq_in obufBase out k h

theorem State.output_frame (s : State) (out : List Byte) (a : Nat) (h : a < obufBase ∨ obufBase + out.length ≤ a) :
    (s.output out).obuf.read a = s.obuf.read a := s.obuf.read_writeSeq_out obufBase out a h

end Sys2Proof.Machine
end

