-- ==== Sys2Proof/Laws/Commands.lean ====
section
/-! SUPPORT. How a command ends: `succeed` and `raiseError` inverted, and that every command is one of the two. -/

namespace Sys2Proof.Machine

/-- Success writes ERR = 0, DONE = 1, and ends the command (46_control.md R291, R292). -/
theorem succeed_next {s t : State} : succeed s = .next t ↔ t = { s with err := 0, done := true, running := none } := by
  unfold succeed
  constructor
  · intro h; cases h; rfl
  · intro h; rw [h]; rfl

/-- Failure writes ERR, OUT_LEN = 0, RESULT = 0, DONE = 1, and ends the command (60_exceptions.md R312). -/
theorem raiseError_next {e : Err} {s t : State} :
    raiseError e s = .next t ↔ t = { s with err := e.code, outLen := 0, result := 0, done := true, running := none } := by
  unfold raiseError
  constructor
  · intro h; cases h; rfl
  · intro h; rw [h]; rfl

/-- The end of a decryption is PaddingError or the stripped message. -/
theorem finishDecrypt_eq (d : List Byte) (s : State) :
    finishDecrypt d s =
      if unpadLength d = d.length then raiseError .paddingError s else succeed (s.output (d.take (unpadLength d))) := by
  unfold finishDecrypt stripPadding
  split <;> simp_all

theorem finishDecrypt_ends (d : List Byte) (s : State) :
    finishDecrypt d s = raiseError .paddingError s ∨ ∃ out, finishDecrypt d s = succeed (s.output out) := by
  rw [finishDecrypt_eq]
  split
  · exact .inl rfl
  · exact .inr ⟨_, rfl⟩

/-! The causes of the errors as conditions on numbers (60_exceptions.md R302, R303, R306). -/

theorem overlong_iff (s : State) : s.overlong = true ↔ s.maxMsg < s.inLen.toNat := by
  unfold State.overlong State.inCount
  exact decide_eq_true_iff

theorem wrongIv_iff (s : State) : s.wrongIv = true ↔ s.ivLen.toNat ≠ 16 := by
  simp only [State.wrongIv, bne_iff_ne, ne_eq, ← BitVec.toNat_inj]
  rfl

theorem ragged_iff (s : State) : s.ragged = true ↔ s.inLen.toNat % 16 ≠ 0 := by simp [State.ragged, State.inCount]

theorem keyLengthLegal_iff (n : BitVec 8) : keyLengthLegal n = true ↔ n.toNat = 16 ∨ n.toNat = 24 ∨ n.toNat = 32 := by
  simp only [keyLengthLegal, Bool.or_eq_true, beq_iff_eq, or_assoc, ← BitVec.toNat_inj]
  rfl

end Sys2Proof.Machine
end

