-- ==== Sys2Proof/Laws/Decode.lean ====
section
/-! SUPPORT. The fields of an encoded word, and what `execute` does with a word in terms of its fields. -/

namespace Sys2Proof

/-- The three fields of a word assembled from an OPCODE and an ARG8 (30_encoding.md R100). -/
theorem fields_of_word (opc arg : Byte) :
    opcodeField (opc.setWidth 32 ||| (arg.setWidth 32 <<< 8)) = opc
      ∧ argField (opc.setWidth 32 ||| (arg.setWidth 32 <<< 8)) = arg
      ∧ rsvdField (opc.setWidth 32 ||| (arg.setWidth 32 <<< 8)) = 0 := by
  refine ⟨?_, ?_, ?_⟩
  · unfold opcodeField
    ext i hi
    simp [show i < 32 by omega, hi]
  · unfold argField
    ext i hi
    simp [BitVec.getLsbD_eq_getElem hi, show 8 + i < 32 by omega, show ¬ 8 + i < 8 by omega]
  · unfold rsvdField
    ext i hi
    simp [show 16 + i < 32 by omega, show ¬ 16 + i < 8 by omega, BitVec.getLsbD_of_ge opc (16 + i) (by omega),
      BitVec.getLsbD_of_ge arg (16 + i - 8) (by omega)]

/-- A word is the sum of its fields. -/
theorem word_of_fields (w : Word) (h : rsvdField w = 0) : (opcodeField w).setWidth 32 ||| ((argField w).setWidth 32 <<< 8) = w := by
  unfold opcodeField argField
  ext i hi
  by_cases h0 : i < 8
  · simp [h0, BitVec.getLsbD_eq_getElem hi]
  · by_cases h1 : i < 16
    · simp [h0, show i - 8 < 8 by omega, show 8 + (i - 8) = i by omega, hi]
    · have hb : (rsvdField w).getLsbD (i - 16) = false := by rw [h]; simp
      simp only [rsvdField, BitVec.getLsbD_extractLsb', show 16 + (i - 16) = i by omega,
        show i - 16 < 16 by omega, BitVec.getLsbD_eq_getElem hi, decide_true, Bool.true_and] at hb
      simp [h0, hb, show ¬ i - 8 < 8 by omega]

/-- Decoding in terms of the fields (R106). -/
theorem decode_of_fields {w : Word} {i : Instr} (h : rsvdField w = 0) (hr : rowAt (opcodeField w).toNat (argField w) = some i)
    (ha : argLegal (opcodeField w).toNat (argField w) = true) : decode w = .ok i := by
  simp [decode, h, hr, ha]

/-- A nonzero RSVD is refused (R106). -/
theorem decode_reserved {w : Word} (h : rsvdField w ≠ 0) : decode w = .error .reservedBits := by
  rw [decode, if_pos h]

/-- What a word that decodes says of its fields. -/
theorem decode_ok {w : Word} {i : Instr} (h : decode w = .ok i) :
    rsvdField w = 0 ∧ rowAt (opcodeField w).toNat (argField w) = some i ∧ argLegal (opcodeField w).toNat (argField w) = true := by
  unfold decode at h
  split at h
  · cases h
  · next hr =>
    split at h
    · cases h
    · next j hj =>
      split at h
      · next ha => cases h; exact ⟨by simpa using hr, hj, ha⟩
      · cases h

namespace Machine

/-- `execute` on a legal word runs its command. -/
theorem execute_ok {w : Word} {i : Instr} (s : State) (h : decode w = .ok i) : execute w s = exec i s := by
  simp [execute, h]

/-- `execute` on an illegal word raises IllegalCommand. -/
theorem execute_error {w : Word} {e : DecodeError} (s : State) (h : decode w = .error e) :
    execute w s = raiseError .illegalCommand s := by
  simp [execute, h]

/-- Every word is one or the other. -/
theorem decode_cases (w : Word) : (∃ i, decode w = .ok i) ∨ ∃ e, decode w = .error e := by
  cases h : decode w with
  | ok i => exact .inl ⟨i, rfl⟩
  | error e => exact .inr ⟨e, rfl⟩

end Machine

end Sys2Proof
end

