-- ==== Sys2Proof/Laws/Field.lean ====
section
/-! SUPPORT. The laws of the GF(2^8) multiplier (40_gf_sbox.md R130 to R132): doubling and the product are linear over XOR, and an
induction that reduces a claim linear in a byte to the eight bytes with one bit set. -/

namespace Sys2Proof.Machine

theorem xor_left_comm (a b c : Byte) : a ^^^ (b ^^^ c) = b ^^^ (a ^^^ c) := by
  rw [← BitVec.xor_assoc, BitVec.xor_comm a b, BitVec.xor_assoc]

theorem xtime_xor (a b : Byte) : xtime (a ^^^ b) = xtime a ^^^ xtime b := by
  unfold xtime
  rw [BitVec.getLsbD_xor, BitVec.shiftLeft_xor_distrib]
  cases a.getLsbD 7 <;> cases b.getLsbD 7 <;> simp [BitVec.xor_assoc, BitVec.xor_comm, xor_left_comm]

theorem gfMulStep_xor_left (b : Byte) (p q : Byte × Byte) (k : Nat) :
    gfMulStep b (p.1 ^^^ q.1, p.2 ^^^ q.2) k = ((gfMulStep b p k).1 ^^^ (gfMulStep b q k).1, (gfMulStep b p k).2 ^^^ (gfMulStep b q k).2) := by
  unfold gfMulStep
  cases b.getLsbD k <;> simp [xtime_xor, BitVec.xor_assoc, xor_left_comm]

theorem gfMul_fold_xor_left (b : Byte) (l : List Nat) (p q : Byte × Byte) :
    l.foldl (gfMulStep b) (p.1 ^^^ q.1, p.2 ^^^ q.2) = ((l.foldl (gfMulStep b) p).1 ^^^ (l.foldl (gfMulStep b) q).1, (l.foldl (gfMulStep b) p).2 ^^^ (l.foldl (gfMulStep b) q).2) := by
  induction l generalizing p q with
  | nil => rfl
  | cons k l ih => simp only [List.foldl_cons, gfMulStep_xor_left, ih]

theorem gfMul_xor_left (a a' b : Byte) : gfMul (a ^^^ a') b = gfMul a b ^^^ gfMul a' b := by
  have := gfMul_fold_xor_left b (List.range 8) (0, a) (0, a')
  rw [show (0 : Byte) ^^^ 0 = 0 from rfl] at this
  exact congrArg Prod.fst this

theorem gfMul_fold_xor_right (b c : Byte) (l : List Nat) (x y t : Byte) :
    l.foldl (gfMulStep (b ^^^ c)) (x ^^^ y, t) = ((l.foldl (gfMulStep b) (x, t)).1 ^^^ (l.foldl (gfMulStep c) (y, t)).1, (l.foldl (gfMulStep b) (x, t)).2) ∧ (l.foldl (gfMulStep b) (x, t)).2 = (l.foldl (gfMulStep c) (y, t)).2 := by
  induction l generalizing x y t with
  | nil => exact ⟨rfl, rfl⟩
  | cons k l ih =>
    simp only [List.foldl_cons]
    have e : gfMulStep (b ^^^ c) (x ^^^ y, t) k = ((gfMulStep b (x, t) k).1 ^^^ (gfMulStep c (y, t) k).1, xtime t) := by
      unfold gfMulStep
      simp only [BitVec.getLsbD_xor]
      cases b.getLsbD k <;> cases c.getLsbD k <;> simp [BitVec.xor_assoc, BitVec.xor_comm, xor_left_comm]
    rw [e]
    exact ih _ _ _

theorem gfMul_xor_right (a b c : Byte) : gfMul a (b ^^^ c) = gfMul a b ^^^ gfMul a c := by
  have := (gfMul_fold_xor_right b c (List.range 8) 0 0 a).1
  rw [show (0 : Byte) ^^^ 0 = 0 from rfl] at this
  exact congrArg Prod.fst this

/-- A property of 0 and of the eight one-bit bytes that XOR keeps holds of every byte. -/
theorem byte_induct {P : Byte → Prop} (h0 : P 0) (hb : ∀ i : Fin 8, P (BitVec.twoPow 8 i)) (hx : ∀ a b, P a → P b → P (a ^^^ b)) (a : Byte) : P a := by
  have key : ∀ n, ∀ a : Byte, a.toNat < 2 ^ n → n ≤ 8 → P a := by
    intro n
    induction n with
    | zero => intro a ha _; have : a = 0 := BitVec.eq_of_toNat_eq (by simpa using ha); rwa [this]
    | succ n ih =>
      intro a ha hn
      by_cases h : a.toNat < 2 ^ n
      · exact ih a h (by omega)
      · have e : a = (a ^^^ BitVec.twoPow 8 n) ^^^ BitVec.twoPow 8 n := by rw [BitVec.xor_assoc]; simp
        rw [e]
        refine hx _ _ (ih _ ?_ (by omega)) (hb ⟨n, by omega⟩)
        have h1 : 2 ^ n < 2 ^ 8 := Nat.pow_lt_pow_right (by omega) (by omega)
        rw [BitVec.toNat_xor, BitVec.toNat_twoPow, Nat.mod_eq_of_lt h1]
        apply Nat.lt_pow_two_of_testBit
        intro i hi
        rw [Nat.testBit_xor, Nat.testBit_two_pow]
        by_cases hin : i = n
        · subst hin
          have : a.toNat.testBit i = true := by
            rw [Nat.testBit_eq_decide_div_mod_eq]
            have : a.toNat / 2 ^ i = 1 := by
              rw [Nat.pow_succ] at ha
              exact Nat.div_eq_of_lt_le (by omega) (by omega)
            simp [this]
          simp [this]
        · have : a.toNat.testBit i = false := Nat.testBit_lt_two_pow (Nat.lt_of_lt_of_le ha (Nat.pow_le_pow_right (by omega) (by omega)))
          simp [this, Ne.symm hin]
  exact key 8 a a.isLt (by omega)


theorem gfMul_zero_right (a : Byte) : gfMul a 0 = 0 := by
  have := gfMul_xor_right a 0 0
  simpa using this
theorem gfMul_zero_left (a : Byte) : gfMul 0 a = 0 := by
  have := gfMul_xor_left 0 0 a
  simpa using this
end Sys2Proof.Machine
end

