-- ==== Sys2Proof/Laws/KeySchedule.lean ====
section
/-! SUPPORT. What the key expansion appends: the words it starts from stay, and each further word is given by R164. -/

namespace Sys2Proof.Machine

@[simp] theorem expandStep_length (nk : Nat) (w : List Word) : (expandStep nk w).length = w.length + 1 := by simp [expandStep]

/-- A step keeps the words there are. -/
theorem expandStep_getD_old (nk : Nat) (w : List Word) (i : Nat) (h : i < w.length) :
    (expandStep nk w).getD i 0 = w.getD i 0 := by
  simp [expandStep, List.getElem?_append_left h]

/-- A step's new word. -/
theorem expandStep_getD_new (nk : Nat) (w : List Word) :
    (expandStep nk w).getD w.length 0 = w.getD (w.length - nk) 0 ^^^ expandTemp nk w.length (w.getD (w.length - 1) 0) := by
  simp [expandStep]

@[simp] theorem expandLoop_length (nk n : Nat) (w : List Word) : (expandLoop nk n w).length = w.length + n := by
  induction n generalizing w with
  | zero => rfl
  | succ n ih => simp only [expandLoop, ih, expandStep_length]; omega

theorem expandLoop_getD_old (nk n : Nat) (w : List Word) (i : Nat) (h : i < w.length) :
    (expandLoop nk n w).getD i 0 = w.getD i 0 := by
  induction n generalizing w with
  | zero => rfl
  | succ n ih => rw [expandLoop, ih _ (by simp; omega), expandStep_getD_old nk w i h]

/-- Every word after the first ones satisfies R164's recurrence. -/
theorem expandLoop_getD_new (nk n : Nat) (w : List Word) (i : Nat) (hk : 0 < nk) (hw : nk ≤ w.length) (h1 : w.length ≤ i)
    (h2 : i < w.length + n) :
    (expandLoop nk n w).getD i 0 =
      (expandLoop nk n w).getD (i - nk) 0 ^^^ expandTemp nk i ((expandLoop nk n w).getD (i - 1) 0) := by
  induction n generalizing w with
  | zero => omega
  | succ n ih =>
    rw [expandLoop]
    by_cases h : w.length = i
    · subst h
      have hlen := expandStep_length nk w
      rw [expandLoop_getD_old nk n _ _ (by omega), expandLoop_getD_old nk n _ _ (by omega),
        expandLoop_getD_old nk n _ _ (by omega), expandStep_getD_new, expandStep_getD_old nk w _ (by omega),
        expandStep_getD_old nk w _ (by omega)]
    · exact ih _ (by simp; omega) (by simp; omega) (by simp; omega)

theorem expand_length (nk : Nat) (key : Vector Byte 32) : (expand nk key).length = nk + (4 * (nk + 7) - nk) := by
  simp [expand]

end Sys2Proof.Machine
end

