-- ==== Sys2Proof/Laws/State.lean ====
section
/-! SUPPORT. One lemma for each field of State under each shared update, so that no later proof unfolds a record update. -/

namespace Sys2Proof.Machine

/-! ### `State.start` -/

@[simp] theorem State.start_maxMsg (s : State) (w : Word) : (s.start w).maxMsg = s.maxMsg := rfl
@[simp] theorem State.start_irqEn (s : State) (w : Word) : (s.start w).irqEn = s.irqEn := rfl
@[simp] theorem State.start_done (s : State) (w : Word) : (s.start w).done = false := rfl
@[simp] theorem State.start_keyValid (s : State) (w : Word) : (s.start w).keyValid = s.keyValid := rfl
@[simp] theorem State.start_ksValid (s : State) (w : Word) : (s.start w).ksValid = s.ksValid := rfl
@[simp] theorem State.start_err (s : State) (w : Word) : (s.start w).err = s.err := rfl
@[simp] theorem State.start_nr (s : State) (w : Word) : (s.start w).nr = s.nr := rfl
@[simp] theorem State.start_running (s : State) (w : Word) : (s.start w).running = some w := rfl
@[simp] theorem State.start_keyLen (s : State) (w : Word) : (s.start w).keyLen = s.keyLen := rfl
@[simp] theorem State.start_ivLen (s : State) (w : Word) : (s.start w).ivLen = s.ivLen := rfl
@[simp] theorem State.start_inLen (s : State) (w : Word) : (s.start w).inLen = s.inLen := rfl
@[simp] theorem State.start_outLen (s : State) (w : Word) : (s.start w).outLen = s.outLen := rfl
@[simp] theorem State.start_nonceLo (s : State) (w : Word) : (s.start w).nonceLo = s.nonceLo := rfl
@[simp] theorem State.start_nonceHi (s : State) (w : Word) : (s.start w).nonceHi = s.nonceHi := rfl
@[simp] theorem State.start_ksCtr (s : State) (w : Word) : (s.start w).ksCtr = s.ksCtr := rfl
@[simp] theorem State.start_ksIdx (s : State) (w : Word) : (s.start w).ksIdx = s.ksIdx := rfl
@[simp] theorem State.start_ksNonce (s : State) (w : Word) : (s.start w).ksNonce = s.ksNonce := rfl
@[simp] theorem State.start_result (s : State) (w : Word) : (s.start w).result = s.result := rfl
@[simp] theorem State.start_opa (s : State) (w : Word) : (s.start w).opa = s.opa := rfl
@[simp] theorem State.start_opb (s : State) (w : Word) : (s.start w).opb = s.opb := rfl
@[simp] theorem State.start_key (s : State) (w : Word) : (s.start w).key = s.key := rfl
@[simp] theorem State.start_iv (s : State) (w : Word) : (s.start w).iv = s.iv := rfl
@[simp] theorem State.start_block (s : State) (w : Word) : (s.start w).block = s.block := rfl
@[simp] theorem State.start_ibuf (s : State) (w : Word) : (s.start w).ibuf = s.ibuf := rfl
@[simp] theorem State.start_obuf (s : State) (w : Word) : (s.start w).obuf = s.obuf := rfl
@[simp] theorem State.start_ks (s : State) (w : Word) : (s.start w).ks = s.ks := rfl
@[simp] theorem State.start_pending (s : State) (w : Word) : (s.start w).pending = s.pending := rfl
@[simp] theorem State.start_readData (s : State) (w : Word) : (s.start w).readData = s.readData := rfl
@[simp] theorem State.start_draws (s : State) (w : Word) : (s.start w).draws = s.draws := rfl

/-! ### `State.finish` -/

@[simp] theorem State.finish_maxMsg (s : State) : (s.finish).maxMsg = s.maxMsg := rfl
@[simp] theorem State.finish_irqEn (s : State) : (s.finish).irqEn = s.irqEn := rfl
@[simp] theorem State.finish_done (s : State) : (s.finish).done = true := rfl
@[simp] theorem State.finish_keyValid (s : State) : (s.finish).keyValid = s.keyValid := rfl
@[simp] theorem State.finish_ksValid (s : State) : (s.finish).ksValid = s.ksValid := rfl
@[simp] theorem State.finish_err (s : State) : (s.finish).err = s.err := rfl
@[simp] theorem State.finish_nr (s : State) : (s.finish).nr = s.nr := rfl
@[simp] theorem State.finish_running (s : State) : (s.finish).running = none := rfl
@[simp] theorem State.finish_keyLen (s : State) : (s.finish).keyLen = s.keyLen := rfl
@[simp] theorem State.finish_ivLen (s : State) : (s.finish).ivLen = s.ivLen := rfl
@[simp] theorem State.finish_inLen (s : State) : (s.finish).inLen = s.inLen := rfl
@[simp] theorem State.finish_outLen (s : State) : (s.finish).outLen = s.outLen := rfl
@[simp] theorem State.finish_nonceLo (s : State) : (s.finish).nonceLo = s.nonceLo := rfl
@[simp] theorem State.finish_nonceHi (s : State) : (s.finish).nonceHi = s.nonceHi := rfl
@[simp] theorem State.finish_ksCtr (s : State) : (s.finish).ksCtr = s.ksCtr := rfl
@[simp] theorem State.finish_ksIdx (s : State) : (s.finish).ksIdx = s.ksIdx := rfl
@[simp] theorem State.finish_ksNonce (s : State) : (s.finish).ksNonce = s.ksNonce := rfl
@[simp] theorem State.finish_result (s : State) : (s.finish).result = s.result := rfl
@[simp] theorem State.finish_opa (s : State) : (s.finish).opa = s.opa := rfl
@[simp] theorem State.finish_opb (s : State) : (s.finish).opb = s.opb := rfl
@[simp] theorem State.finish_key (s : State) : (s.finish).key = s.key := rfl
@[simp] theorem State.finish_iv (s : State) : (s.finish).iv = s.iv := rfl
@[simp] theorem State.finish_block (s : State) : (s.finish).block = s.block := rfl
@[simp] theorem State.finish_ibuf (s : State) : (s.finish).ibuf = s.ibuf := rfl
@[simp] theorem State.finish_obuf (s : State) : (s.finish).obuf = s.obuf := rfl
@[simp] theorem State.finish_ks (s : State) : (s.finish).ks = s.ks := rfl
@[simp] theorem State.finish_pending (s : State) : (s.finish).pending = s.pending := rfl
@[simp] theorem State.finish_readData (s : State) : (s.finish).readData = s.readData := rfl
@[simp] theorem State.finish_draws (s : State) : (s.finish).draws = s.draws := rfl

/-! ### `State.setResult` -/

@[simp] theorem State.setResult_maxMsg (s : State) (v : Word) : (s.setResult v).maxMsg = s.maxMsg := rfl
@[simp] theorem State.setResult_irqEn (s : State) (v : Word) : (s.setResult v).irqEn = s.irqEn := rfl
@[simp] theorem State.setResult_done (s : State) (v : Word) : (s.setResult v).done = s.done := rfl
@[simp] theorem State.setResult_keyValid (s : State) (v : Word) : (s.setResult v).keyValid = s.keyValid := rfl
@[simp] theorem State.setResult_ksValid (s : State) (v : Word) : (s.setResult v).ksValid = s.ksValid := rfl
@[simp] theorem State.setResult_err (s : State) (v : Word) : (s.setResult v).err = s.err := rfl
@[simp] theorem State.setResult_nr (s : State) (v : Word) : (s.setResult v).nr = s.nr := rfl
@[simp] theorem State.setResult_running (s : State) (v : Word) : (s.setResult v).running = s.running := rfl
@[simp] theorem State.setResult_keyLen (s : State) (v : Word) : (s.setResult v).keyLen = s.keyLen := rfl
@[simp] theorem State.setResult_ivLen (s : State) (v : Word) : (s.setResult v).ivLen = s.ivLen := rfl
@[simp] theorem State.setResult_inLen (s : State) (v : Word) : (s.setResult v).inLen = s.inLen := rfl
@[simp] theorem State.setResult_outLen (s : State) (v : Word) : (s.setResult v).outLen = s.outLen := rfl
@[simp] theorem State.setResult_nonceLo (s : State) (v : Word) : (s.setResult v).nonceLo = s.nonceLo := rfl
@[simp] theorem State.setResult_nonceHi (s : State) (v : Word) : (s.setResult v).nonceHi = s.nonceHi := rfl
@[simp] theorem State.setResult_ksCtr (s : State) (v : Word) : (s.setResult v).ksCtr = s.ksCtr := rfl
@[simp] theorem State.setResult_ksIdx (s : State) (v : Word) : (s.setResult v).ksIdx = s.ksIdx := rfl
@[simp] theorem State.setResult_ksNonce (s : State) (v : Word) : (s.setResult v).ksNonce = s.ksNonce := rfl
@[simp] theorem State.setResult_result (s : State) (v : Word) : (s.setResult v).result = v := rfl
@[simp] theorem State.setResult_opa (s : State) (v : Word) : (s.setResult v).opa = s.opa := rfl
@[simp] theorem State.setResult_opb (s : State) (v : Word) : (s.setResult v).opb = s.opb := rfl
@[simp] theorem State.setResult_key (s : State) (v : Word) : (s.setResult v).key = s.key := rfl
@[simp] theorem State.setResult_iv (s : State) (v : Word) : (s.setResult v).iv = s.iv := rfl
@[simp] theorem State.setResult_block (s : State) (v : Word) : (s.setResult v).block = s.block := rfl
@[simp] theorem State.setResult_ibuf (s : State) (v : Word) : (s.setResult v).ibuf = s.ibuf := rfl
@[simp] theorem State.setResult_obuf (s : State) (v : Word) : (s.setResult v).obuf = s.obuf := rfl
@[simp] theorem State.setResult_ks (s : State) (v : Word) : (s.setResult v).ks = s.ks := rfl
@[simp] theorem State.setResult_pending (s : State) (v : Word) : (s.setResult v).pending = s.pending := rfl
@[simp] theorem State.setResult_readData (s : State) (v : Word) : (s.setResult v).readData = s.readData := rfl
@[simp] theorem State.setResult_draws (s : State) (v : Word) : (s.setResult v).draws = s.draws := rfl

/-! ### `State.setBlock` -/

@[simp] theorem State.setBlock_maxMsg (s : State) (b : Block) : (s.setBlock b).maxMsg = s.maxMsg := rfl
@[simp] theorem State.setBlock_irqEn (s : State) (b : Block) : (s.setBlock b).irqEn = s.irqEn := rfl
@[simp] theorem State.setBlock_done (s : State) (b : Block) : (s.setBlock b).done = s.done := rfl
@[simp] theorem State.setBlock_keyValid (s : State) (b : Block) : (s.setBlock b).keyValid = s.keyValid := rfl
@[simp] theorem State.setBlock_ksValid (s : State) (b : Block) : (s.setBlock b).ksValid = s.ksValid := rfl
@[simp] theorem State.setBlock_err (s : State) (b : Block) : (s.setBlock b).err = s.err := rfl
@[simp] theorem State.setBlock_nr (s : State) (b : Block) : (s.setBlock b).nr = s.nr := rfl
@[simp] theorem State.setBlock_running (s : State) (b : Block) : (s.setBlock b).running = s.running := rfl
@[simp] theorem State.setBlock_keyLen (s : State) (b : Block) : (s.setBlock b).keyLen = s.keyLen := rfl
@[simp] theorem State.setBlock_ivLen (s : State) (b : Block) : (s.setBlock b).ivLen = s.ivLen := rfl
@[simp] theorem State.setBlock_inLen (s : State) (b : Block) : (s.setBlock b).inLen = s.inLen := rfl
@[simp] theorem State.setBlock_outLen (s : State) (b : Block) : (s.setBlock b).outLen = s.outLen := rfl
@[simp] theorem State.setBlock_nonceLo (s : State) (b : Block) : (s.setBlock b).nonceLo = s.nonceLo := rfl
@[simp] theorem State.setBlock_nonceHi (s : State) (b : Block) : (s.setBlock b).nonceHi = s.nonceHi := rfl
@[simp] theorem State.setBlock_ksCtr (s : State) (b : Block) : (s.setBlock b).ksCtr = s.ksCtr := rfl
@[simp] theorem State.setBlock_ksIdx (s : State) (b : Block) : (s.setBlock b).ksIdx = s.ksIdx := rfl
@[simp] theorem State.setBlock_ksNonce (s : State) (b : Block) : (s.setBlock b).ksNonce = s.ksNonce := rfl
@[simp] theorem State.setBlock_result (s : State) (b : Block) : (s.setBlock b).result = s.result := rfl
@[simp] theorem State.setBlock_opa (s : State) (b : Block) : (s.setBlock b).opa = s.opa := rfl
@[simp] theorem State.setBlock_opb (s : State) (b : Block) : (s.setBlock b).opb = s.opb := rfl
@[simp] theorem State.setBlock_key (s : State) (b : Block) : (s.setBlock b).key = s.key := rfl
@[simp] theorem State.setBlock_iv (s : State) (b : Block) : (s.setBlock b).iv = s.iv := rfl
@[simp] theorem State.setBlock_block (s : State) (b : Block) : (s.setBlock b).block = b := rfl
@[simp] theorem State.setBlock_ibuf (s : State) (b : Block) : (s.setBlock b).ibuf = s.ibuf := rfl
@[simp] theorem State.setBlock_obuf (s : State) (b : Block) : (s.setBlock b).obuf = s.obuf := rfl
@[simp] theorem State.setBlock_ks (s : State) (b : Block) : (s.setBlock b).ks = s.ks := rfl
@[simp] theorem State.setBlock_pending (s : State) (b : Block) : (s.setBlock b).pending = s.pending := rfl
@[simp] theorem State.setBlock_readData (s : State) (b : Block) : (s.setBlock b).readData = s.readData := rfl
@[simp] theorem State.setBlock_draws (s : State) (b : Block) : (s.setBlock b).draws = s.draws := rfl

/-! ### `State.output` -/

@[simp] theorem State.output_maxMsg (s : State) (o : List Byte) : (s.output o).maxMsg = s.maxMsg := rfl
@[simp] theorem State.output_irqEn (s : State) (o : List Byte) : (s.output o).irqEn = s.irqEn := rfl
@[simp] theorem State.output_done (s : State) (o : List Byte) : (s.output o).done = s.done := rfl
@[simp] theorem State.output_keyValid (s : State) (o : List Byte) : (s.output o).keyValid = s.keyValid := rfl
@[simp] theorem State.output_ksValid (s : State) (o : List Byte) : (s.output o).ksValid = s.ksValid := rfl
@[simp] theorem State.output_err (s : State) (o : List Byte) : (s.output o).err = s.err := rfl
@[simp] theorem State.output_nr (s : State) (o : List Byte) : (s.output o).nr = s.nr := rfl
@[simp] theorem State.output_running (s : State) (o : List Byte) : (s.output o).running = s.running := rfl
@[simp] theorem State.output_keyLen (s : State) (o : List Byte) : (s.output o).keyLen = s.keyLen := rfl
@[simp] theorem State.output_ivLen (s : State) (o : List Byte) : (s.output o).ivLen = s.ivLen := rfl
@[simp] theorem State.output_inLen (s : State) (o : List Byte) : (s.output o).inLen = s.inLen := rfl
@[simp] theorem State.output_outLen (s : State) (o : List Byte) : (s.output o).outLen = BitVec.ofNat 32 o.length := rfl
@[simp] theorem State.output_nonceLo (s : State) (o : List Byte) : (s.output o).nonceLo = s.nonceLo := rfl
@[simp] theorem State.output_nonceHi (s : State) (o : List Byte) : (s.output o).nonceHi = s.nonceHi := rfl
@[simp] theorem State.output_ksCtr (s : State) (o : List Byte) : (s.output o).ksCtr = s.ksCtr := rfl
@[simp] theorem State.output_ksIdx (s : State) (o : List Byte) : (s.output o).ksIdx = s.ksIdx := rfl
@[simp] theorem State.output_ksNonce (s : State) (o : List Byte) : (s.output o).ksNonce = s.ksNonce := rfl
@[simp] theorem State.output_result (s : State) (o : List Byte) : (s.output o).result = s.result := rfl
@[simp] theorem State.output_opa (s : State) (o : List Byte) : (s.output o).opa = s.opa := rfl
@[simp] theorem State.output_opb (s : State) (o : List Byte) : (s.output o).opb = s.opb := rfl
@[simp] theorem State.output_key (s : State) (o : List Byte) : (s.output o).key = s.key := rfl
@[simp] theorem State.output_iv (s : State) (o : List Byte) : (s.output o).iv = s.iv := rfl
@[simp] theorem State.output_block (s : State) (o : List Byte) : (s.output o).block = s.block := rfl
@[simp] theorem State.output_ibuf (s : State) (o : List Byte) : (s.output o).ibuf = s.ibuf := rfl
@[simp] theorem State.output_obuf (s : State) (o : List Byte) : (s.output o).obuf = s.obuf.writeSeq obufBase o := rfl
@[simp] theorem State.output_ks (s : State) (o : List Byte) : (s.output o).ks = s.ks := rfl
@[simp] theorem State.output_pending (s : State) (o : List Byte) : (s.output o).pending = s.pending := rfl
@[simp] theorem State.output_readData (s : State) (o : List Byte) : (s.output o).readData = s.readData := rfl
@[simp] theorem State.output_draws (s : State) (o : List Byte) : (s.output o).draws = s.draws := rfl

/-! ### `State.advanceCursor` -/

@[simp] theorem State.advanceCursor_maxMsg (s : State) : (s.advanceCursor).maxMsg = s.maxMsg := by
  unfold State.advanceCursor; split <;> rfl
@[simp] theorem State.advanceCursor_irqEn (s : State) : (s.advanceCursor).irqEn = s.irqEn := by
  unfold State.advanceCursor; split <;> rfl
@[simp] theorem State.advanceCursor_done (s : State) : (s.advanceCursor).done = s.done := by
  unfold State.advanceCursor; split <;> rfl
@[simp] theorem State.advanceCursor_keyValid (s : State) : (s.advanceCursor).keyValid = s.keyValid := by
  unfold State.advanceCursor; split <;> rfl
@[simp] theorem State.advanceCursor_ksValid (s : State) : (s.advanceCursor).ksValid = s.ksValid := by
  unfold State.advanceCursor; split <;> rfl
@[simp] theorem State.advanceCursor_err (s : State) : (s.advanceCursor).err = s.err := by
  unfold State.advanceCursor; split <;> rfl
@[simp] theorem State.advanceCursor_nr (s : State) : (s.advanceCursor).nr = s.nr := by
  unfold State.advanceCursor; split <;> rfl
@[simp] theorem State.advanceCursor_running (s : State) : (s.advanceCursor).running = s.running := by
  unfold State.advanceCursor; split <;> rfl
@[simp] theorem State.advanceCursor_keyLen (s : State) : (s.advanceCursor).keyLen = s.keyLen := by
  unfold State.advanceCursor; split <;> rfl
@[simp] theorem State.advanceCursor_ivLen (s : State) : (s.advanceCursor).ivLen = s.ivLen := by
  unfold State.advanceCursor; split <;> rfl
@[simp] theorem State.advanceCursor_inLen (s : State) : (s.advanceCursor).inLen = s.inLen := by
  unfold State.advanceCursor; split <;> rfl
@[simp] theorem State.advanceCursor_outLen (s : State) : (s.advanceCursor).outLen = s.outLen := by
  unfold State.advanceCursor; split <;> rfl
@[simp] theorem State.advanceCursor_nonceLo (s : State) : (s.advanceCursor).nonceLo = s.nonceLo := by
  unfold State.advanceCursor; split <;> rfl
@[simp] theorem State.advanceCursor_nonceHi (s : State) : (s.advanceCursor).nonceHi = s.nonceHi := by
  unfold State.advanceCursor; split <;> rfl
@[simp] theorem State.advanceCursor_ksCtr (s : State) : (s.advanceCursor).ksCtr = if s.ksIdx = 15 then s.ksCtr + 1 else s.ksCtr := by
  unfold State.advanceCursor; split <;> rfl
@[simp] theorem State.advanceCursor_ksIdx (s : State) : (s.advanceCursor).ksIdx = if s.ksIdx = 15 then 0 else s.ksIdx + 1 := by
  unfold State.advanceCursor; split <;> rfl
@[simp] theorem State.advanceCursor_ksNonce (s : State) : (s.advanceCursor).ksNonce = s.ksNonce := by
  unfold State.advanceCursor; split <;> rfl
@[simp] theorem State.advanceCursor_result (s : State) : (s.advanceCursor).result = s.result := by
  unfold State.advanceCursor; split <;> rfl
@[simp] theorem State.advanceCursor_opa (s : State) : (s.advanceCursor).opa = s.opa := by
  unfold State.advanceCursor; split <;> rfl
@[simp] theorem State.advanceCursor_opb (s : State) : (s.advanceCursor).opb = s.opb := by
  unfold State.advanceCursor; split <;> rfl
@[simp] theorem State.advanceCursor_key (s : State) : (s.advanceCursor).key = s.key := by
  unfold State.advanceCursor; split <;> rfl
@[simp] theorem State.advanceCursor_iv (s : State) : (s.advanceCursor).iv = s.iv := by
  unfold State.advanceCursor; split <;> rfl
@[simp] theorem State.advanceCursor_block (s : State) : (s.advanceCursor).block = s.block := by
  unfold State.advanceCursor; split <;> rfl
@[simp] theorem State.advanceCursor_ibuf (s : State) : (s.advanceCursor).ibuf = s.ibuf := by
  unfold State.advanceCursor; split <;> rfl
@[simp] theorem State.advanceCursor_obuf (s : State) : (s.advanceCursor).obuf = s.obuf := by
  unfold State.advanceCursor; split <;> rfl
@[simp] theorem State.advanceCursor_ks (s : State) : (s.advanceCursor).ks = s.ks := by
  unfold State.advanceCursor; split <;> rfl
@[simp] theorem State.advanceCursor_pending (s : State) : (s.advanceCursor).pending = s.pending := by
  unfold State.advanceCursor; split <;> rfl
@[simp] theorem State.advanceCursor_readData (s : State) : (s.advanceCursor).readData = s.readData := by
  unfold State.advanceCursor; split <;> rfl
@[simp] theorem State.advanceCursor_draws (s : State) : (s.advanceCursor).draws = s.draws := by
  unfold State.advanceCursor; split <;> rfl

end Sys2Proof.Machine
end

