-- ==== Sys2Proof/Laws/Keystream.lean ====
section
/-! SUPPORT. The keystream cursor: what moving it leaves alone, and that `n` moves add `n` to its place modulo 2^68
(45_modes.md R273). -/

namespace Sys2Proof.Machine

/-- Moving the cursor writes KS_CTR and KS_IDX only. -/
theorem State.advanceCursor_frame (s : State) :
    s.advanceCursor = { s with ksCtr := s.advanceCursor.ksCtr, ksIdx := s.advanceCursor.ksIdx } := by
  unfold State.advanceCursor
  split <;> rfl

/-- `n` moves write KS_CTR and KS_IDX only. -/
theorem State.advanceBy_frame (s : State) (n : Nat) :
    s.advanceBy n = { s with ksCtr := (s.advanceBy n).ksCtr, ksIdx := (s.advanceBy n).ksIdx } := by
  induction n generalizing s with
  | zero => rfl
  | succ n ih =>
    rw [State.advanceBy, ih, State.advanceCursor_frame s]

@[simp] theorem State.advanceBy_maxMsg (s : State) (n : Nat) : (s.advanceBy n).maxMsg = s.maxMsg := by rw [State.advanceBy_frame]
@[simp] theorem State.advanceBy_irqEn (s : State) (n : Nat) : (s.advanceBy n).irqEn = s.irqEn := by rw [State.advanceBy_frame]
@[simp] theorem State.advanceBy_done (s : State) (n : Nat) : (s.advanceBy n).done = s.done := by rw [State.advanceBy_frame]
@[simp] theorem State.advanceBy_keyValid (s : State) (n : Nat) : (s.advanceBy n).keyValid = s.keyValid := by rw [State.advanceBy_frame]
@[simp] theorem State.advanceBy_ksValid (s : State) (n : Nat) : (s.advanceBy n).ksValid = s.ksValid := by rw [State.advanceBy_frame]
@[simp] theorem State.advanceBy_err (s : State) (n : Nat) : (s.advanceBy n).err = s.err := by rw [State.advanceBy_frame]
@[simp] theorem State.advanceBy_nr (s : State) (n : Nat) : (s.advanceBy n).nr = s.nr := by rw [State.advanceBy_frame]
@[simp] theorem State.advanceBy_running (s : State) (n : Nat) : (s.advanceBy n).running = s.running := by rw [State.advanceBy_frame]
@[simp] theorem State.advanceBy_keyLen (s : State) (n : Nat) : (s.advanceBy n).keyLen = s.keyLen := by rw [State.advanceBy_frame]
@[simp] theorem State.advanceBy_ivLen (s : State) (n : Nat) : (s.advanceBy n).ivLen = s.ivLen := by rw [State.advanceBy_frame]
@[simp] theorem State.advanceBy_inLen (s : State) (n : Nat) : (s.advanceBy n).inLen = s.inLen := by rw [State.advanceBy_frame]
@[simp] theorem State.advanceBy_outLen (s : State) (n : Nat) : (s.advanceBy n).outLen = s.outLen := by rw [State.advanceBy_frame]
@[simp] theorem State.advanceBy_nonceLo (s : State) (n : Nat) : (s.advanceBy n).nonceLo = s.nonceLo := by rw [State.advanceBy_frame]
@[simp] theorem State.advanceBy_nonceHi (s : State) (n : Nat) : (s.advanceBy n).nonceHi = s.nonceHi := by rw [State.advanceBy_frame]
@[simp] theorem State.advanceBy_ksNonce (s : State) (n : Nat) : (s.advanceBy n).ksNonce = s.ksNonce := by rw [State.advanceBy_frame]
@[simp] theorem State.advanceBy_result (s : State) (n : Nat) : (s.advanceBy n).result = s.result := by rw [State.advanceBy_frame]
@[simp] theorem State.advanceBy_opa (s : State) (n : Nat) : (s.advanceBy n).opa = s.opa := by rw [State.advanceBy_frame]
@[simp] theorem State.advanceBy_opb (s : State) (n : Nat) : (s.advanceBy n).opb = s.opb := by rw [State.advanceBy_frame]
@[simp] theorem State.advanceBy_key (s : State) (n : Nat) : (s.advanceBy n).key = s.key := by rw [State.advanceBy_frame]
@[simp] theorem State.advanceBy_iv (s : State) (n : Nat) : (s.advanceBy n).iv = s.iv := by rw [State.advanceBy_frame]
@[simp] theorem State.advanceBy_block (s : State) (n : Nat) : (s.advanceBy n).block = s.block := by rw [State.advanceBy_frame]
@[simp] theorem State.advanceBy_ibuf (s : State) (n : Nat) : (s.advanceBy n).ibuf = s.ibuf := by rw [State.advanceBy_frame]
@[simp] theorem State.advanceBy_obuf (s : State) (n : Nat) : (s.advanceBy n).obuf = s.obuf := by rw [State.advanceBy_frame]
@[simp] theorem State.advanceBy_ks (s : State) (n : Nat) : (s.advanceBy n).ks = s.ks := by rw [State.advanceBy_frame]
@[simp] theorem State.advanceBy_pending (s : State) (n : Nat) : (s.advanceBy n).pending = s.pending := by rw [State.advanceBy_frame]
@[simp] theorem State.advanceBy_readData (s : State) (n : Nat) : (s.advanceBy n).readData = s.readData := by rw [State.advanceBy_frame]
@[simp] theorem State.advanceBy_draws (s : State) (n : Nat) : (s.advanceBy n).draws = s.draws := by rw [State.advanceBy_frame]

/-- `a + b` moves are `a` moves and then `b` moves. -/
theorem State.advanceBy_add (s : State) (a b : Nat) : s.advanceBy (a + b) = (s.advanceBy a).advanceBy b := by
  induction a generalizing s with
  | zero => simp [State.advanceBy]
  | succ a ih => rw [show a + 1 + b = (a + b) + 1 by omega, State.advanceBy, ih, State.advanceBy]

@[simp] theorem State.cursorBytes_length (s : State) (n : Nat) : (s.cursorBytes n).length = n := by
  induction n generalizing s with
  | zero => rfl
  | succ n ih => simp [State.cursorBytes, ih]

/-- Byte `k` of the next `n` is the byte under the cursor after `k` moves. -/
theorem State.cursorBytes_getElem (s : State) (n k : Nat) (h : k < (s.cursorBytes n).length) :
    (s.cursorBytes n)[k] = (s.advanceBy k).cursorByte := by
  induction n generalizing s k with
  | zero => exact absurd h (by simp)
  | succ n ih =>
    cases k with
    | zero => rfl
    | succ k =>
      simp only [State.cursorBytes, List.getElem_cons_succ, State.advanceBy]
      exact ih _ _ _

end Sys2Proof.Machine
end

