-- ==== Sys2Proof/Laws/PerInstr.lean ====
section
/-! SUPPORT. Statements made one command at a time. EncodedFields: the three fields of a command's word (30_encoding.md R100,
R104). -/

namespace Sys2Proof.Laws

/-- The word of the command has the command's OPCODE, its ARG8 and RSVD = 0. -/
def EncodedFields.Statement (i : Instr) : Prop :=
  opcodeField (encode i) = i.opcode ∧ argField (encode i) = i.arg8 ∧ rsvdField (encode i) = 0

theorem EncodedFields.nop : EncodedFields.Statement .nop := fields_of_word _ _
theorem EncodedFields.makeKey : EncodedFields.Statement .makeKey := fields_of_word _ _
theorem EncodedFields.encEcb : EncodedFields.Statement .encEcb := fields_of_word _ _
theorem EncodedFields.decEcb : EncodedFields.Statement .decEcb := fields_of_word _ _
theorem EncodedFields.encCbc : EncodedFields.Statement .encCbc := fields_of_word _ _
theorem EncodedFields.decCbc : EncodedFields.Statement .decCbc := fields_of_word _ _
theorem EncodedFields.ctrXform : EncodedFields.Statement .ctrXform := fields_of_word _ _
theorem EncodedFields.ksReset : EncodedFields.Statement .ksReset := fields_of_word _ _
theorem EncodedFields.ksRead : EncodedFields.Statement .ksRead := fields_of_word _ _
theorem EncodedFields.ksNext : EncodedFields.Statement .ksNext := fields_of_word _ _
theorem EncodedFields.cipher : EncodedFields.Statement .cipher := fields_of_word _ _
theorem EncodedFields.invCipher : EncodedFields.Statement .invCipher := fields_of_word _ _
theorem EncodedFields.pad (bs : Byte) : EncodedFields.Statement (.pad bs) := fields_of_word _ _
theorem EncodedFields.unpadLen : EncodedFields.Statement .unpadLen := fields_of_word _ _
theorem EncodedFields.gfMul : EncodedFields.Statement .gfMul := fields_of_word _ _
theorem EncodedFields.xtime : EncodedFields.Statement .xtime := fields_of_word _ _
theorem EncodedFields.sbox : EncodedFields.Statement .sbox := fields_of_word _ _
theorem EncodedFields.invSbox : EncodedFields.Statement .invSbox := fields_of_word _ _
theorem EncodedFields.rcon (j : Byte) : EncodedFields.Statement (.rcon j) := fields_of_word _ _
theorem EncodedFields.subBytes : EncodedFields.Statement .subBytes := fields_of_word _ _
theorem EncodedFields.invSubBytes : EncodedFields.Statement .invSubBytes := fields_of_word _ _
theorem EncodedFields.shiftRows : EncodedFields.Statement .shiftRows := fields_of_word _ _
theorem EncodedFields.invShiftRows : EncodedFields.Statement .invShiftRows := fields_of_word _ _
theorem EncodedFields.mixColumns : EncodedFields.Statement .mixColumns := fields_of_word _ _
theorem EncodedFields.invMixColumns : EncodedFields.Statement .invMixColumns := fields_of_word _ _
theorem EncodedFields.addRoundKey (r : Byte) : EncodedFields.Statement (.addRoundKey r) := fields_of_word _ _

end Sys2Proof.Laws
end

