-- ==== Sys2Proof/Laws/Rounds.lean ====
section
/-! SUPPORT. The round transforms byte by byte (42_round_transforms.md R181 to R187). -/

namespace Sys2Proof.Machine

@[simp] theorem subBytes_getElem (s : Block) (i : Nat) (h : i < 16) : (subBytes s)[i] = sbox s[i] := by simp [subBytes]

@[simp] theorem invSubBytes_getElem (s : Block) (i : Nat) (h : i < 16) : (invSubBytes s)[i] = invSbox s[i] := by
  simp [invSubBytes]

theorem shiftRows_getElem (s : Block) (i : Nat) (h : i < 16) :
    (shiftRows s)[i] = s[i % 4 + 4 * ((i / 4 + i % 4) % 4)] := by simp [shiftRows, rowRotated]

theorem invShiftRows_getElem (s : Block) (i : Nat) (h : i < 16) :
    (invShiftRows s)[i] = s[i % 4 + 4 * ((i / 4 + (4 - i % 4)) % 4)] := by simp [invShiftRows, rowRotated]

theorem addRoundKey_getElem (ks : Vector Word 60) (r : Nat) (s : Block) (i : Nat) (h : i < 16) :
    (addRoundKey ks r s)[i] = s[i] ^^^ byteBE (ksWord ks (4 * r + i / 4)) (i % 4) := by simp [addRoundKey]

theorem ofColumns_getElem (f : Fin 4 → Vector Byte 4) (i : Nat) (h : i < 16) :
    (ofColumns f)[i] = (f ⟨i / 4, by omega⟩)[i % 4] := by simp [ofColumns]

theorem column_getElem (s : Block) (c : Fin 4) (r : Nat) (h : r < 4) : (column s c)[r] = s[r + 4 * c.val] := by
  simp [column]

/-- The columns of a block made of columns are those columns. -/
theorem column_ofColumns (f : Fin 4 → Vector Byte 4) (c : Fin 4) : column (ofColumns f) c = f c := by
  refine Vector.ext fun r hr => ?_
  have h1 : (r + 4 * c.val) / 4 = c.val := by omega
  have h2 : (r + 4 * c.val) % 4 = r := by omega
  rw [column_getElem _ _ _ hr, ofColumns_getElem]
  simp only [h1, h2]

/-- A block is made of its columns. -/
theorem ofColumns_column (s : Block) : ofColumns (column s) = s := by
  refine Vector.ext fun i hi => ?_
  have h : i % 4 + 4 * (i / 4) = i := by omega
  rw [ofColumns_getElem, column_getElem _ _ _ (by omega)]
  simp only [h]

theorem addRoundKey_addRoundKey (ks : Vector Word 60) (r : Nat) (s : Block) :
    addRoundKey ks r (addRoundKey ks r s) = s := by
  refine Vector.ext fun i hi => ?_
  rw [addRoundKey_getElem, addRoundKey_getElem, BitVec.xor_assoc, BitVec.xor_self, BitVec.xor_zero]

end Sys2Proof.Machine
end

