-- ==== Sys2Proof/Tests/Slice0.lean ====
section
/-! SUPPORT. The model's own tests. First the well-formedness smoke, the decoding of every command, and one or two results per
command, with every expected value from the spec (95_test_vectors.md and the examples of the command rules); then, for every
statement with hypotheses, a state and operands that meet them. -/

namespace Sys2Proof.Tests

open Sys2Proof.Machine

/-! ### Helpers -/

/-- A vector of the bytes of a list, then zeros. -/
def vecOf (n : Nat) (l : List Byte) : Vector Byte n := Vector.ofFn fun i => l.getD i.val 0

/-- A buffer that lists the bytes of a list from `base` on. -/
def memOf (base : Nat) (l : List Byte) : Memory := { cells := cellsFrom base l, draw := 0 }

/-- A field of the next state. -/
def field {α : Type} (r : Result) (f : State → α) : Option α :=
  match r with
  | .next t => some (f t)
  | .fault _ => none
  | .refused _ => none

/-- The next state, where there is one. -/
def nextOf (r : Result) : State :=
  match r with
  | .next t => t
  | .fault _ => State.reset
  | .refused _ => State.reset

/-- The first `n` bytes of OBUF. -/
def outBytes (t : State) (n : Nat) : List Byte := (List.range n).map t.obufByte

/-- The reset state with every buffer and KS zero, so that states can be compared, and MAX_MSG = 32. -/
def blank : State :=
  { State.reset with
    maxMsg := 32, key := vecOf 32 [], iv := vecOf 16 [], block := vecOf 16 [], ks := Vector.replicate 60 0
    ibuf := memOf ibufBase (List.replicate 32 0), obuf := memOf obufBase (List.replicate 48 0) }

/-- The bytes `00 01 02 … 1f`: the key of 95_test_vectors.md, whole for AES-256 and its first 16 bytes for AES-128. -/
def counting : List Byte := (List.range 32).map (BitVec.ofNat 8)

/-- The block `00112233445566778899aabbccddeeff`. -/
def elevens : List Byte := (List.range 16).map fun i => BitVec.ofNat 8 (17 * i)

/-- The state after MAKE_KEY of the first 16 bytes of `counting`. -/
def keyed : State :=
  { blank with
    key := vecOf 32 counting, keyLen := 16, keyValid := true, nr := 10
    ks := storeSchedule (expand 4 (vecOf 32 counting)) blank.ks }

/-- The state with a message in IBUF. -/
def State.withMessage (s : State) (m : List Byte) : State :=
  { s with ibuf := memOf ibufBase m, inLen := BitVec.ofNat 32 m.length }

/-- The state with `u`'s first OUT_LEN output bytes in IBUF and IN_LEN = OUT_LEN. -/
def State.copyFrom (s u : State) (n : Nat) : State :=
  { s with ibuf := memOf ibufBase (outBytes u n), inLen := u.outLen }

/-- "Hello, world!" (44_padding.md R234's example). -/
def hello : List Byte := [0x48, 0x65, 0x6c, 0x6c, 0x6f, 0x2c, 0x20, 0x77, 0x6f, 0x72, 0x6c, 0x64, 0x21]

/-! ### Well-formedness, reset, memory -/

theorem test_wf_pad_zero_refused : (Instr.pad 0).wellFormed = false := by decide
theorem test_wf_rcon_zero_refused : (Instr.rcon 0).wellFormed = false := by decide
theorem test_wf_rcon_eleven_refused : (Instr.rcon 11).wellFormed = false := by decide
theorem test_wf_bounds_accepted :
    (Instr.pad 1).wellFormed ∧ (Instr.pad 255).wellFormed ∧ (Instr.rcon 1).wellFormed ∧ (Instr.rcon 10).wellFormed
      ∧ (Instr.addRoundKey 255).wellFormed := by decide
theorem test_max_msg_refused : legalMaxMsg 0 = false ∧ legalMaxMsg 24 = false ∧ legalMaxMsg 65536 = false := by decide
theorem test_max_msg_accepted : legalMaxMsg 16 = true ∧ legalMaxMsg 4096 = true ∧ legalMaxMsg 65520 = true := by decide
theorem test_reset_memory_canonical :
    State.reset.ibuf.wf ibufBase (ibufBase + 4096) ∧ State.reset.obuf.wf obufBase (obufBase + 4112) := by decide
theorem test_write_keeps_order : ((memOf 0 [1, 2]).write 1 9).cells = [(0, 1), (1, 9)] := by decide

/-! ### Decoding: a word written out from 30_encoding.md R100 and R104 for every command -/

theorem test_decode_control : decode 0b00000000000000000000000000000000 = .ok .nop := by decide
theorem test_decode_makeKey : decode 0b00000000000000000000000000000001 = .ok .makeKey := by decide
theorem test_decode_encEcb : decode 0b00000000000000000000000000000010 = .ok .encEcb := by decide
theorem test_decode_decEcb : decode 0b00000000000000000000000000000011 = .ok .decEcb := by decide
theorem test_decode_encCbc : decode 0b00000000000000000000000000000100 = .ok .encCbc := by decide
theorem test_decode_decCbc : decode 0b00000000000000000000000000000101 = .ok .decCbc := by decide
theorem test_decode_ctrXform : decode 0b00000000000000000000000000000110 = .ok .ctrXform := by decide
theorem test_decode_ksReset : decode 0b00000000000000000000000000000111 = .ok .ksReset := by decide
theorem test_decode_ksRead : decode 0b00000000000000000000000000001000 = .ok .ksRead := by decide
theorem test_decode_ksNext : decode 0b00000000000000000000000000001001 = .ok .ksNext := by decide
theorem test_decode_cipher : decode 0b00000000000000000000000000010000 = .ok .cipher := by decide
theorem test_decode_invCipher : decode 0b00000000000000000000000000010001 = .ok .invCipher := by decide
theorem test_decode_pad : decode 0b00000000000000000001000000010010 = .ok (.pad 16) := by decide
theorem test_decode_unpadLen : decode 0b00000000000000000000000000010011 = .ok .unpadLen := by decide
theorem test_decode_gfMul : decode 0b00000000000000000000000000100000 = .ok .gfMul := by decide
theorem test_decode_xtime : decode 0b00000000000000000000000000100001 = .ok .xtime := by decide
theorem test_decode_sbox : decode 0b00000000000000000000000000100010 = .ok .sbox := by decide
theorem test_decode_invSbox : decode 0b00000000000000000000000000100011 = .ok .invSbox := by decide
theorem test_decode_rcon : decode 0b00000000000000000000101000100100 = .ok (.rcon 10) := by decide
theorem test_decode_subBytes : decode 0b00000000000000000000000000110000 = .ok .subBytes := by decide
theorem test_decode_invSubBytes : decode 0b00000000000000000000000000110001 = .ok .invSubBytes := by decide
theorem test_decode_shiftRows : decode 0b00000000000000000000000000110010 = .ok .shiftRows := by decide
theorem test_decode_invShiftRows : decode 0b00000000000000000000000000110011 = .ok .invShiftRows := by decide
theorem test_decode_mixColumns : decode 0b00000000000000000000000000110100 = .ok .mixColumns := by decide
theorem test_decode_invMixColumns : decode 0b00000000000000000000000000110101 = .ok .invMixColumns := by decide
theorem test_decode_addRoundKey : decode 0b00000000000000000000111000110110 = .ok (.addRoundKey 14) := by decide
theorem test_decode_illegal :
    decode 0x0000000a = .error .unknownOpcode ∧ decode 0x00000037 = .error .unknownOpcode
      ∧ decode 0x00010000 = .error .reservedBits ∧ decode 0x00000012 = .error .badArgument
      ∧ decode 0x00000b24 = .error .badArgument ∧ decode 0x00000101 = .error .badArgument := by decide

/-! ### Results -/

/-- 46_control.md R293's example. -/
theorem test_nop_clears_err : field (exec .nop { State.reset with err := 4 }) (fun t => (t.err, t.done)) = some (0, true) := by
  decide
/-- R165's example. -/
theorem test_makeKey_128 :
    field (exec .makeKey { blank with key := vecOf 32 counting, keyLen := 16 })
      (fun t => (t.keyValid, t.nr, t.ks[4], t.ks[43], t.ks[44])) = some (true, 10, 0xd6aa74fd, 0x4d2b30c5, 0) := by
  decide +kernel
/-- R165: KEY_LEN = 20 leaves no key. -/
theorem test_makeKey_bad_length :
    field (exec .makeKey { keyed with keyLen := 20, ksValid := true }) (fun t => (t.err, t.keyValid, t.nr, t.ksValid))
      = some (1, false, 0, false) := by decide
/-- V60 of 95_test_vectors.md. -/
theorem test_encEcb_hello :
    field (exec .encEcb (State.withMessage keyed hello)) (fun t => (t.outLen, outBytes t 16))
      = some (16, [0x5f, 0x2d, 0x34, 0xa0, 0x3f, 0x1c, 0x8f, 0x64, 0xd9, 0x91, 0xba, 0xba, 0x03, 0x30, 0xce, 0xdc]) := by
  decide +kernel
/-- V60 of 95_test_vectors.md. -/
theorem test_decEcb_hello :
    field (exec .decEcb (State.withMessage keyed
        [0x5f, 0x2d, 0x34, 0xa0, 0x3f, 0x1c, 0x8f, 0x64, 0xd9, 0x91, 0xba, 0xba, 0x03, 0x30, 0xce, 0xdc]))
      (fun t => (t.outLen, outBytes t 13)) = some (13, hello) := by decide +kernel
/-- V61 of 95_test_vectors.md, IV = `00 01 … 0f`. -/
theorem test_encCbc_hello :
    field (exec .encCbc { State.withMessage keyed hello with iv := vecOf 16 counting, ivLen := 16 })
      (fun t => (t.outLen, outBytes t 16))
      = some (16, [0x4e, 0x28, 0x10, 0x04, 0x7e, 0x6b, 0x9a, 0x45, 0xf4, 0x01, 0x80, 0x7a, 0x42, 0x06, 0xa2, 0xed]) := by
  decide +kernel
/-- V61 of 95_test_vectors.md: the wrong IV breaks the padding, and nothing is written. -/
theorem test_decCbc_wrong_iv :
    field (exec .decCbc { State.withMessage keyed
        [0x4e, 0x28, 0x10, 0x04, 0x7e, 0x6b, 0x9a, 0x45, 0xf4, 0x01, 0x80, 0x7a, 0x42, 0x06, 0xa2, 0xed] with ivLen := 16 })
      (fun t => (t.err, t.outLen, outBytes t 16)) = some (4, 0, List.replicate 16 0) := by decide +kernel
/-- V61 of 95_test_vectors.md. -/
theorem test_decCbc_hello :
    field (exec .decCbc { State.withMessage keyed
        [0x4e, 0x28, 0x10, 0x04, 0x7e, 0x6b, 0x9a, 0x45, 0xf4, 0x01, 0x80, 0x7a, 0x42, 0x06, 0xa2, 0xed] with
          iv := vecOf 16 counting, ivLen := 16 })
      (fun t => (t.outLen, outBytes t 13)) = some (13, hello) := by decide +kernel
/-- 45_modes.md R266's example, its first two bytes. -/
theorem test_ctrXform_zeros :
    field (exec .ctrXform (State.withMessage keyed [0, 0])) (fun t => (t.outLen, outBytes t 2)) = some (2, [0xc6, 0xa1]) := by
  decide +kernel
/-- R270's example. -/
theorem test_ksReset :
    field (exec .ksReset { keyed with nonceLo := 5, ksCtr := 7, ksIdx := 3 })
      (fun t => (t.ksNonce, t.ksCtr, t.ksIdx, t.ksValid)) = some (5, 0, 0, true) := by decide
/-- R271's example, its bytes 15 and 16: across a block boundary. -/
theorem test_ksRead_crosses_block :
    field (exec .ksRead { keyed with ksValid := true, ksIdx := 15, inLen := 2 }) (fun t => (t.ksCtr, t.ksIdx, outBytes t 2))
      = some (1, 1, [0x79, 0x5f]) := by decide +kernel
/-- R272's example. -/
theorem test_ksNext_byte_twenty :
    field (exec .ksNext { keyed with ksValid := true, ksCtr := 1, ksIdx := 4 }) (fun t => (t.result, t.ksCtr, t.ksIdx))
      = some (0x52, 1, 5) := by decide +kernel
/-- R214's example. -/
theorem test_cipher_known_answer :
    field (exec .cipher { keyed with block := vecOf 16 elevens }) (fun t => t.block.toList)
      = some [0x69, 0xc4, 0xe0, 0xd8, 0x6a, 0x7b, 0x04, 0x30, 0xd8, 0xcd, 0xb7, 0x80, 0x70, 0xb4, 0xc5, 0x5a] := by
  decide +kernel
/-- R214's example, inverted (R213). -/
theorem test_invCipher_known_answer :
    field (exec .invCipher { keyed with
        block := vecOf 16 [0x69, 0xc4, 0xe0, 0xd8, 0x6a, 0x7b, 0x04, 0x30, 0xd8, 0xcd, 0xb7, 0x80, 0x70, 0xb4, 0xc5, 0x5a] })
      (fun t => t.block) = some (vecOf 16 elevens) := by decide +kernel
/-- R234's example. -/
theorem test_pad_hello :
    field (exec (.pad 16) (State.withMessage blank hello)) (fun t => (t.outLen, outBytes t 16))
      = some (16, hello ++ [3, 3, 3]) := by decide +kernel
/-- R234: a padded length above MAX_MSG + 16. -/
theorem test_pad_overflow : field (exec (.pad 255) { blank with inLen := 13 }) (fun t => (t.err, t.outLen)) = some (6, 0) := by
  decide
/-- R235's examples. -/
theorem test_unpadLen :
    field (exec .unpadLen (State.withMessage blank (hello ++ [3, 3, 3]))) (fun t => t.result) = some 13
      ∧ field (exec .unpadLen (State.withMessage blank (hello ++ [3, 2, 3]))) (fun t => t.result) = some 16 := by decide +kernel
/-- R140's example. -/
theorem test_gfMul : field (exec .gfMul { State.reset with opa := 0x57, opb := 0x83 }) (fun t => t.result) = some 0xc1 := by
  decide
/-- R141's example and its corner case. -/
theorem test_xtime :
    field (exec .xtime { State.reset with opa := 0x57 }) (fun t => t.result) = some 0xae
      ∧ field (exec .xtime { State.reset with opa := 0xff }) (fun t => t.result) = some 0xe5 := by decide
/-- R142's example. -/
theorem test_sbox : field (exec .sbox { State.reset with opa := 0x53 }) (fun t => t.result) = some 0xed := by decide
/-- R143's example. -/
theorem test_invSbox : field (exec .invSbox { State.reset with opa := 0xed }) (fun t => t.result) = some 0x53 := by decide
/-- R144's example. -/
theorem test_rcon : field (exec (.rcon 8) State.reset) (fun t => t.result) = some 0x80 := by decide
/-- V30 of 95_test_vectors.md. -/
theorem test_subBytes :
    field (exec .subBytes { blank with block := vecOf 16 counting }) (fun t => t.block.toList)
      = some [0x63, 0x7c, 0x77, 0x7b, 0xf2, 0x6b, 0x6f, 0xc5, 0x30, 0x01, 0x67, 0x2b, 0xfe, 0xd7, 0xab, 0x76] := by
  decide +kernel
/-- V30 of 95_test_vectors.md. -/
theorem test_invSubBytes :
    field (exec .invSubBytes { blank with block := vecOf 16 counting }) (fun t => t.block.toList)
      = some [0x52, 0x09, 0x6a, 0xd5, 0x30, 0x36, 0xa5, 0x38, 0xbf, 0x40, 0xa3, 0x9e, 0x81, 0xf3, 0xd7, 0xfb] := by
  decide +kernel
/-- R192's example. -/
theorem test_shiftRows :
    field (exec .shiftRows { blank with block := vecOf 16 counting }) (fun t => t.block.toList)
      = some [0x00, 0x05, 0x0a, 0x0f, 0x04, 0x09, 0x0e, 0x03, 0x08, 0x0d, 0x02, 0x07, 0x0c, 0x01, 0x06, 0x0b] := by
  decide +kernel
/-- R193's example. -/
theorem test_invShiftRows :
    field (exec .invShiftRows { blank with block := vecOf 16 counting }) (fun t => t.block.toList)
      = some [0x00, 0x0d, 0x0a, 0x07, 0x04, 0x01, 0x0e, 0x0b, 0x08, 0x05, 0x02, 0x0f, 0x0c, 0x09, 0x06, 0x03] := by
  decide +kernel
/-- R194's example, first two columns. -/
theorem test_mixColumns :
    field (exec .mixColumns { blank with block := vecOf 16 [0xdb, 0x13, 0x53, 0x45, 0xf2, 0x0a, 0x22, 0x5c] })
      (fun t => t.block.toList.take 8) = some [0x8e, 0x4d, 0xa1, 0xbc, 0x9f, 0xdc, 0x58, 0x9d] := by decide +kernel
/-- R195's example, first two columns. -/
theorem test_invMixColumns :
    field (exec .invMixColumns { blank with block := vecOf 16 [0x8e, 0x4d, 0xa1, 0xbc, 0x9f, 0xdc, 0x58, 0x9d] })
      (fun t => t.block.toList.take 8) = some [0xdb, 0x13, 0x53, 0x45, 0xf2, 0x0a, 0x22, 0x5c] := by decide +kernel
/-- R196's example. -/
theorem test_addRoundKey :
    field (exec (.addRoundKey 0) { keyed with block := vecOf 16 elevens }) (fun t => t.block.toList)
      = some [0x00, 0x10, 0x20, 0x30, 0x40, 0x50, 0x60, 0x70, 0x80, 0x90, 0xa0, 0xb0, 0xc0, 0xd0, 0xe0, 0xf0] := by
  decide +kernel
/-- R196, R310: no key comes before a round above NR. -/
theorem test_addRoundKey_errors :
    field (exec (.addRoundKey 11) keyed) (fun t => t.err) = some 7
      ∧ field (exec (.addRoundKey 11) State.reset) (fun t => t.err) = some 5 := by decide
/-- 30_encoding.md R105: an unassigned opcode, run as the first command. -/
theorem test_step_illegal : field (step (State.reset.withFetchWord 32 0x0a)) (fun t => (t.err, t.done)) = some (7, true) := by
  decide
/-- 20_memory.md R76's example. -/
theorem test_key_lanes :
    field (step { blank with pending := [.write .word 0x040 0x03020100] }) (fun t => t.key.toList.take 5) = some [0, 1, 2, 3, 0] := by
  decide +kernel
/-- 20_memory.md R77's example: KSW word 0 of that key. -/
theorem test_ksw_word : field (step { keyed with pending := [.read .word 0x100] }) (fun t => t.readData) = some 0x00010203 := by
  decide +kernel
/-- 10_state.md R22: a soft reset leaves IRQ_EN at 0 whatever bit 0 is. -/
theorem test_soft_reset_irq_en :
    field (step { keyed with pending := [.write .word 0x004 0x3] }) (fun t => (t.irqEn, t.keyValid)) = some (false, false) := by
  decide

/-! ### Witnesses: the hypotheses of each statement are met, clause by clause, at the ends of their ranges -/

theorem witness_DecodeOfEncode : ∃ i : Instr, i.wellFormed = true := ⟨.pad 255, by decide⟩
theorem witness_EncodeOfDecode : ∃ (w : Word) (i : Instr), decode w = .ok i := ⟨0x0000ff12, .pad 255, by decide⟩
theorem witness_IllegalWords :
    (0x00010000 : Word).toNat / 65536 ≠ 0 ∧ ¬((0x0a : Nat) ≤ 0x09) ∧ (0xff000012 : Word).toNat / 256 % 256 = 0
      ∧ (10 < (0x0b24 : Word).toNat / 256 % 256) ∧ (0x0101 : Word).toNat / 256 % 256 ≠ 0 := by decide
theorem witness_IllegalWords_addRoundKey :
    (0x00000b36 : Word).toNat / 65536 = 0 ∧ (0x00000b36 : Word).toNat % 256 = 0x36 ∧ keyed.keyValid = true
      ∧ keyed.nr.toNat < (0x00000b36 : Word).toNat / 256 % 256 := by decide
theorem witness_StepRuns_empty : ∃ (s : State) (w : Word) (i : Instr), decode w = .ok i ∧ s.running = some w ∧ s.pending = [] :=
  ⟨{ blank with running := some 0x20 }, 0x20, .gfMul, by decide, rfl, rfl⟩
theorem witness_StepRuns_engine :
    ∃ (s : State) (w : Word) (i : Instr) (rest : List Event),
      decode w = .ok i ∧ s.running = some w ∧ s.pending = .engine :: rest :=
  ⟨{ blank with running := some 0x20, pending := [.engine] }, 0x20, .gfMul, [], by decide, rfl, rfl⟩
theorem witness_Idle : blank.running = none ∧ blank.pending = [] ∧ ({ blank with pending := [.engine] } : State).pending = [.engine] :=
  ⟨rfl, rfl, rfl⟩
theorem witness_CmdWrite :
    ∃ (s : State) (w : Word) (rest : List Event), s.busy = false ∧ s.pending = .write .word 0x00C w :: rest :=
  ⟨{ blank with pending := [.write .word 0x00C 1] }, 1, [], rfl, rfl⟩
theorem witness_EveryCommandCompletes : ∃ (s : State) (w : Word), s.running = some w ∧ s.pending = [] :=
  ⟨{ blank with running := some 0xffffffff }, 0xffffffff, rfl, rfl⟩
theorem witness_PlainEncoding :
    ∀ opc ∈ [(0x00 : Byte), 0x01, 0x02, 0x03, 0x04, 0x05, 0x06, 0x07, 0x08, 0x09, 0x10, 0x11, 0x13, 0x20, 0x21, 0x22, 0x23,
        0x30, 0x31, 0x32, 0x33, 0x34, 0x35],
      opcodeField (opc.setWidth 32 ||| 0x100) = opc ∧ opc.setWidth 32 ||| (0x100 : Word) ≠ opc.setWidth 32 := by decide
theorem witness_Rcon :
    1 ≤ (1 : Byte).toNat ∧ (10 : Byte).toNat ≤ 10 ∧ opcodeField 0x0024 = 0x24 ∧ (argField 0x0024).toNat = 0
      ∧ opcodeField 0x0b24 = 0x24 ∧ 10 < (argField 0x0b24).toNat ∧ opcodeField 0x10124 = 0x24 ∧ rsvdField 0x10124 ≠ 0 := by
  decide
theorem witness_SboxAffine : gfMul 0x53 0xca = 0x01 ∧ gfMul 0x01 0x01 = 0x01 ∧ (0 : Byte) = 0 := by decide
theorem witness_KeyExpansion :
    ((4 = 4 ∨ 4 = 6 ∨ 4 = 8) ∧ 3 < 4 ∧ 4 * 3 + 3 < 32 ∧ 4 ≤ 4 ∧ 43 < 4 * (4 + 6 + 1))
      ∧ ((8 = 4 ∨ 8 = 6 ∨ 8 = 8) ∧ 7 < 8 ∧ 4 * 7 + 3 < 32 ∧ 8 ≤ 8 ∧ 59 < 4 * (8 + 6 + 1)) := by decide
theorem witness_MakeKey :
    (({ blank with keyLen := 15 } : State).keyLen.toNat ≠ 16 ∧ ({ blank with keyLen := 33 } : State).keyLen.toNat ≠ 32)
      ∧ keyed.keyLen.toNat = 16 ∧ ({ blank with keyLen := 24 } : State).keyLen.toNat = 24
      ∧ ({ blank with keyLen := 32 } : State).keyLen.toNat = 32 := by decide
theorem witness_MakeKeyReads :
    ∃ (s t : State) (k : Vector Byte 32), (∀ i : Fin 32, i.val < s.keyLen.toNat → k[i] = s.key[i]) ∧ k ≠ s.key
      ∧ exec .makeKey s = .next t :=
  ⟨keyed, _, vecOf 32 (counting.take 16), by decide +kernel, by decide +kernel, rfl⟩
theorem witness_AddRoundKey :
    (opcodeField 0x10036 = 0x36 ∧ rsvdField 0x10036 ≠ 0) ∧ blank.keyValid = false
      ∧ (keyed.keyValid = true ∧ keyed.nr.toNat < (11 : Byte).toNat)
      ∧ ({ keyed with nr := 14 } : State).keyValid = true ∧ ({ keyed with nr := 14 } : State).nr.toNat ≤ 14
      ∧ (14 : Byte).toNat ≤ ({ keyed with nr := 14 } : State).nr.toNat ∧ 4 * (14 : Byte).toNat + 3 < 60 := by decide
theorem witness_CipherCommands : blank.keyValid = false ∧ keyed.keyValid = true ∧ 1 ≤ keyed.nr.toNat ∧ 1 ≤ 9 ∧ 9 < keyed.nr.toNat := by
  decide
theorem witness_InvCipherUndoesCipher : ∃ s : State, s.keyValid = true := ⟨keyed, rfl⟩
theorem witness_CipherReads :
    ∃ (ks ks' : Vector Word 60) (nr : Nat), nr ≤ 14 ∧ ks ≠ ks' ∧ ∀ i : Fin 60, i.val < 4 * (nr + 1) → ks[i] = ks'[i] :=
  ⟨Vector.replicate 60 0, Vector.ofFn fun i => if i.val < 56 then 0 else 1, 13, by decide, by decide +kernel, by decide +kernel⟩
theorem witness_Pad :
    (opcodeField 0x0012 = 0x12 ∧ argField 0x0012 = 0) ∧ (opcodeField 0x11012 = 0x12 ∧ rsvdField 0x11012 ≠ 0)
      ∧ ((16 : Byte) ≠ 0 ∧ blank.maxMsg < ({ blank with inLen := 33 } : State).len)
      ∧ ((16 : Byte) ≠ 0 ∧ ({ blank with inLen := 32 } : State).len ≤ blank.maxMsg
          ∧ ({ blank with inLen := 32 } : State).len + (16 - 32 % 16) ≤ blank.maxMsg + 16) := by decide
theorem witness_Pad_overflow :
    (255 : Byte) ≠ 0 ∧ ({ blank with inLen := 32 } : State).len ≤ blank.maxMsg
      ∧ blank.maxMsg + 16 < ({ blank with inLen := 32 } : State).len
          + ((255 : Byte).toNat - ({ blank with inLen := 32 } : State).len % (255 : Byte).toNat) := by decide
theorem witness_UnpadLen_errors :
    ({ blank with inLen := 33 } : State).maxMsg < ({ blank with inLen := 33 } : State).len ∧ blank.len = 0 := by decide
theorem witness_UnpadLen_valid :
    let s := State.withMessage blank [1]
    0 < s.len ∧ s.len ≤ s.maxMsg ∧ (s.ibufByte (s.len - 1)).toNat ≤ s.len
      ∧ ∀ k, k < s.len → s.len - (s.ibufByte (s.len - 1)).toNat ≤ k
          → (s.ibufByte k).toNat = (s.ibufByte (s.len - 1)).toNat := by decide +kernel
theorem witness_UnpadLen_invalid :
    let s := State.withMessage blank [2]
    0 < s.len ∧ s.len ≤ s.maxMsg ∧ ¬(s.ibufByte (s.len - 1)).toNat ≤ s.len := by decide +kernel
theorem witness_UnpadOfPad : 1 ≤ 1 ∧ 1 ≤ 255 ∧ 255 ≤ 255 := by decide
theorem witness_modes_errors :
    blank.keyValid = false
      ∧ (({ keyed with inLen := 33 } : State).keyValid = true ∧ keyed.maxMsg < ({ keyed with inLen := 33 } : State).len)
      ∧ (({ keyed with ivLen := 15 } : State).len ≤ keyed.maxMsg ∧ ({ keyed with ivLen := 15 } : State).ivLen.toNat ≠ 16)
      ∧ (({ keyed with ivLen := 16, inLen := 17 } : State).ivLen.toNat = 16
          ∧ ({ keyed with ivLen := 16, inLen := 17 } : State).len ≤ keyed.maxMsg
          ∧ ({ keyed with ivLen := 16, inLen := 17 } : State).len % 16 ≠ 0) := by decide
theorem witness_modes_complete :
    keyed.keyValid = true ∧ ({ keyed with ivLen := 16, inLen := 32 } : State).len ≤ keyed.maxMsg
      ∧ ({ keyed with ivLen := 16, inLen := 32 } : State).ivLen.toNat = 16
      ∧ ({ keyed with ivLen := 16, inLen := 32 } : State).len % 16 = 0 := by decide
/-- The premise of PaddingError: the empty message. -/
theorem witness_DecryptEnds_padding :
    unpadLength ((List.range keyed.len).map (ecbPlain keyed)) = keyed.len
      ∧ unpadLength ((List.range keyed.len).map (cbcPlain keyed)) = keyed.len := by decide +kernel
/-- The premise of success: V60's ciphertext. -/
theorem witness_DecryptEnds_ecb :
    let s := State.withMessage keyed
      [0x5f, 0x2d, 0x34, 0xa0, 0x3f, 0x1c, 0x8f, 0x64, 0xd9, 0x91, 0xba, 0xba, 0x03, 0x30, 0xce, 0xdc]
    unpadLength ((List.range s.len).map (ecbPlain s)) ≠ s.len := by decide +kernel
/-- The premise of success: V61's ciphertext with its IV. -/
theorem witness_DecryptEnds_cbc :
    let s := { State.withMessage keyed
      [0x4e, 0x28, 0x10, 0x04, 0x7e, 0x6b, 0x9a, 0x45, 0xf4, 0x01, 0x80, 0x7a, 0x42, 0x06, 0xa2, 0xed] with
      iv := vecOf 16 counting }
    unpadLength ((List.range s.len).map (cbcPlain s)) ≠ s.len := by decide +kernel

/-- A full message for a round trip: 16 bytes, with MAX_MSG = 32. -/
def tripStart : State := { State.withMessage keyed elevens with iv := vecOf 16 counting, ivLen := 16, nonceLo := 7 }

theorem witness_EcbRoundTrip :
    ∃ s t u : State, legalMaxMsg s.maxMsg = true ∧ s.keyValid = true ∧ s.len + 16 ≤ s.maxMsg ∧ exec .encEcb s = .next t
      ∧ u.keyValid = true ∧ u.ks = s.ks ∧ u.nr = s.nr ∧ u.maxMsg = s.maxMsg ∧ u.inLen = t.outLen
      ∧ ∀ k, k < t.outLen.toNat → u.ibufByte k = t.obufByte k :=
  ⟨tripStart, nextOf (exec .encEcb tripStart), State.copyFrom tripStart (nextOf (exec .encEcb tripStart)) 32,
    by decide, rfl, by decide, rfl, rfl, rfl, rfl, rfl, rfl, by decide +kernel⟩
theorem witness_CbcRoundTrip :
    ∃ s t u : State, legalMaxMsg s.maxMsg = true ∧ s.keyValid = true ∧ s.len + 16 ≤ s.maxMsg ∧ s.ivLen = 16
      ∧ exec .encCbc s = .next t ∧ u.keyValid = true ∧ u.ks = s.ks ∧ u.nr = s.nr ∧ u.maxMsg = s.maxMsg ∧ u.inLen = t.outLen
      ∧ u.ivLen = 16 ∧ u.iv = s.iv ∧ ∀ k, k < t.outLen.toNat → u.ibufByte k = t.obufByte k :=
  ⟨tripStart, nextOf (exec .encCbc tripStart), State.copyFrom tripStart (nextOf (exec .encCbc tripStart)) 32,
    by decide, rfl, by decide, rfl, rfl, rfl, rfl, rfl, rfl, rfl, rfl, rfl, by decide +kernel⟩
theorem witness_CtrInverse :
    ∃ s t u : State, s.keyValid = true ∧ s.len ≤ s.maxMsg ∧ exec .ctrXform s = .next t ∧ u.keyValid = true ∧ u.ks = s.ks
      ∧ u.nr = s.nr ∧ u.maxMsg = s.maxMsg ∧ u.inLen = t.outLen ∧ u.nonceLo = s.nonceLo ∧ u.nonceHi = s.nonceHi
      ∧ ∀ k, k < t.outLen.toNat → u.ibufByte k = t.obufByte k :=
  ⟨State.withMessage tripStart [0x48, 0x65], nextOf (exec .ctrXform (State.withMessage tripStart [0x48, 0x65])),
    State.copyFrom tripStart (nextOf (exec .ctrXform (State.withMessage tripStart [0x48, 0x65]))) 2,
    rfl, by decide, rfl, rfl, rfl, rfl, rfl, rfl, rfl, rfl, by decide +kernel⟩
theorem witness_KsCommands :
    keyed.ksValid = false ∧ ({ keyed with ksValid := true, inLen := 32 } : State).ksValid = true
      ∧ ({ keyed with ksValid := true, inLen := 32 } : State).len ≤ keyed.maxMsg
      ∧ keyed.maxMsg < ({ keyed with ksValid := true, inLen := 33 } : State).len := by decide
theorem witness_KsReadSplits :
    ∃ (s t u v : State) (a b : Word), s.ksValid = true ∧ a.toNat + b.toNat ≤ s.maxMsg ∧ a.toNat + b.toNat < 2 ^ 32
      ∧ exec .ksRead { s with inLen := a } = .next t ∧ exec .ksRead { t with inLen := b } = .next u
      ∧ exec .ksRead { s with inLen := a + b } = .next v :=
  ⟨{ keyed with ksValid := true, ksIdx := 15 }, _, _, _, 1, 2, rfl, by decide, by decide, rfl, rfl, rfl⟩
theorem witness_exec_next :
    (∃ t, exec .makeKey keyed = .next t) ∧ (∃ t, exec .ksReset keyed = .next t)
      ∧ (∃ t, exec .ksNext blank = .next t ∧ t.err ≠ 0) ∧ ∃ t, exec .makeKey blank = .next t ∧ t.err ≠ 0 :=
  ⟨⟨_, rfl⟩, ⟨_, rfl⟩, ⟨_, rfl, by decide⟩, ⟨_, rfl, by decide⟩⟩
theorem witness_Failures_decode : decode 0x0a = .error .unknownOpcode := by decide
theorem witness_Invariant : keyed.Inv ∧ (∃ t, step keyed = .next t) ∧ ({ keyed with pending := [.write .word 0x00C 1] } : State).Inv :=
  ⟨by decide +kernel, ⟨_, rfl⟩, by decide +kernel⟩
theorem witness_StepStops :
    supported blank (.read .byte 0) = false ∧ supported blank (.read .word 0x3fffc) = true
      ∧ supported { blank with running := some 0 } (.write .word 0x00C 0) = false
      ∧ supported { blank with running := some 0 } (.write .word 0x008 0) = true := by decide
theorem witness_BusError :
    AccessSize.half ≠ .word ∧ (0x3fffd : Offset).toNat % 4 ≠ 0
      ∧ ({ blank with pending := [.read .half 0] } : State).pending = [.read .half 0] := ⟨by decide, by decide, rfl⟩
theorem witness_WritesWhileBusy :
    let s : State := { blank with running := some 0, pending := [.write .word 0x00C 0] }
    let u : State := { blank with running := some 0, pending := [.write .word 0x004 2] }
    (s.busy = true ∧ (0x00C : Offset).toNat % 4 = 0 ∧ (0x00C : Offset) ≠ 0x004 ∧ (0x00C : Offset) ≠ 0x008
        ∧ s.pending = [.write .word 0x00C 0])
      ∧ (u.busy = true ∧ (0x004 : Offset).toNat % 4 = 0 ∧ (2 : Word).getLsbD 1 = true ∧ u.pending = [.write .word 0x004 2])
      ∧ (1 : Word).getLsbD 1 = false ∧ (0x008 : Offset).toNat % 4 = 0 := by
  refine ⟨⟨rfl, by decide, by decide, by decide, rfl⟩, ⟨rfl, by decide, by decide, rfl⟩, by decide, by decide⟩
theorem witness_ReadsWhileBusy :
    let s : State := { blank with running := some 0, pending := [.read .word 0x034] }
    s.busy = true ∧ (0x034 : Offset).toNat % 4 = 0 ∧ s.pending = [.read .word 0x034] ∧ (0x034 : Offset) ≠ 0x000
      ∧ (0x034 : Offset) ≠ 0x004 ∧ (0x034 : Offset) ≠ 0x008 :=
  ⟨rfl, by decide, rfl, by decide, by decide, by decide⟩
theorem witness_ReadsAs_WritesTo :
    blank.running = none ∧ ({ blank with pending := [.read .word 0x03C] } : State).pending = [.read .word 0x03C]
      ∧ ({ blank with pending := [.write .word 0x03C 5] } : State).pending = [.write .word 0x03C 5]
      ∧ ({ blank with pending := [.write .word 0x004 1] } : State).pending = [.write .word 0x004 1]
      ∧ (1 : Word).getLsbD 1 = false := ⟨rfl, rfl, rfl, rfl, by decide⟩
theorem witness_Status :
    ({ blank with pending := [.read .word 0x008] } : State).pending = [.read .word 0x008] := rfl
theorem witness_SmallWindows :
    7 < 8 ∧ 4 * 7 + 3 < 32 ∧ 3 < 4 ∧ 4 * 3 + 3 < 16 ∧ BitVec.ofNat 18 (0x40 + 4 * 7) = (0x5C : Offset)
      ∧ BitVec.ofNat 18 (0x60 + 4 * 3) = (0x6C : Offset) ∧ BitVec.ofNat 18 (0x70 + 4 * 3) = (0x7C : Offset) := by decide
theorem witness_MessageWindows :
    blank.running = none ∧ 4 * 7 + 3 < 0x10000 ∧ 4 * 7 + 3 < blank.maxMsg ∧ 4 * 11 + 3 < blank.maxMsg + 16
      ∧ 4 * 0x3fff + 3 < 0x10000 ∧ 4 * 0x3fff + 3 < ({ blank with maxMsg := 65520 } : State).maxMsg + 16 := by decide
theorem witness_KeyScheduleWindow :
    59 < 60 ∧ ({ keyed with nr := 14 } : State).keyValid = true ∧ 59 < 4 * (({ keyed with nr := 14 } : State).nr.toNat + 1) := by
  decide
theorem witness_ReservedOffsets :
    blank.running = none ∧ (0x80 ≤ (0x80 : Offset).toNat ∧ (0x80 : Offset).toNat % 4 = 0)
      ∧ (0x1F0 ≤ (0x1F0 : Offset).toNat ∧ (0x0fffc : Offset).toNat < 0x10000)
      ∧ 0x10000 + blank.maxMsg ≤ (0x10020 : Offset).toNat ∧ 0x20000 + blank.maxMsg + 16 ≤ (0x20030 : Offset).toNat
      ∧ 0x30000 ≤ (0x3fffc : Offset).toNat ∧ (0x3fffc : Offset).toNat % 4 = 0 := by decide
theorem witness_SoftReset :
    let s : State := { blank with running := some 0, pending := [.write .word 0x004 3] }
    s.pending = [.write .word 0x004 3] ∧ (3 : Word).getLsbD 1 = true ∧ s.busy = true ∧ blank.busy = false :=
  ⟨rfl, by decide, rfl, rfl⟩
theorem witness_HardReset : ({ keyed with running := some 1, pending := [.hardReset] } : State).pending = [.hardReset] := rfl

end Sys2Proof.Tests
end

section
/-! SUPPORT. What a command can do: each writes one kind of change and then succeeds or raises an error. Said once here as
`exec_ends`, so that what every command keeps is proved over the kinds of change and not over the commands. -/

namespace Sys2Proof.Machine

/-! ### The kinds of change -/

/-- `Change s u`: `u` is `s` after what one command may write before it completes. -/
inductive Change (s : State) : State → Prop where
  /-- Nothing. -/
  | none : Change s s
  /-- RESULT (10_state.md R32). -/
  | result (v : Word) : Change s (s.setResult v)
  /-- The buffer STATE (R37). -/
  | block (b : Block) : Change s (s.setBlock b)
  /-- An output that OBUF has room for (R40). -/
  | output (out : List Byte) (h : out.length ≤ s.maxMsg + 16) : Change s (s.output out)
  /-- The cursor and RESULT (45_modes.md R272). -/
  | nextByte (v : Word) : Change s (s.advanceCursor.setResult v)
  /-- The cursor and an output (R271). -/
  | streamOutput (n : Nat) (out : List Byte) (h : out.length ≤ s.maxMsg + 16) : Change s ((s.advanceBy n).output out)
  /-- A new keystream, which needs a key (R270). -/
  | newStream (hk : s.keyValid = true) (n c : U64) (i : BitVec 4) :
      Change s { s with ksNonce := n, ksCtr := c, ksIdx := i, ksValid := true }
  /-- A new key schedule, of 10, 12 or 14 rounds (41_key_schedule.md R165). -/
  | newKey (ks : Vector Word 60) (nr : BitVec 4) (h : nr = 10 ∨ nr = 12 ∨ nr = 14) :
      Change s { s with ksValid := false, ks := ks, keyValid := true, nr := nr }
  /-- The loss of the key on an illegal length (R165). -/
  | noKey : Change s { s with ksValid := false, keyValid := false, nr := 0 }

/-- The answer is a success or an error, after a change that one command may write. -/
inductive Ends (s : State) : Result → Prop where
  | succeed {u : State} (h : Change s u) : Ends s (succeed u)
  | raise (e : Err) {u : State} (h : Change s u) : Ends s (raiseError e u)

/-- An error that writes nothing of its own (60_exceptions.md R312). -/
theorem Ends.error (e : Err) (s : State) : Ends s (raiseError e s) := .raise e .none

/-- A check of a command: both sides end. -/
theorem Ends.ite {s : State} {c : Prop} [Decidable c] {a b : Result} (ha : c → Ends s a) (hb : ¬c → Ends s b) :
    Ends s (if c then a else b) := by
  split
  · next h => exact ha h
  · next h => exact hb h

/-- A check that ends in an error when it fails the command. -/
theorem Ends.guard {s : State} {c : Prop} [Decidable c] {e : Err} {b : Result} (hb : ¬c → Ends s b) :
    Ends s (if c then raiseError e s else b) := .ite (fun _ => .error e s) hb

/-! ### Every output fits in OBUF (10_state.md R40) -/

/-- A message that is not too long has at most MAX_MSG bytes. -/
theorem message_length_le {s : State} (h : ¬ s.overlong = true) : s.message.length ≤ s.maxMsg := by
  rw [overlong_iff] at h
  rw [message_length]
  omega

/-- Padding a message to 16 and cutting it in blocks gives at most 16 bytes more. -/
theorem paddedBlocks_length_le {s : State} (h : ¬ s.overlong = true) :
    16 * ((pad s.message 16).length / 16) ≤ s.maxMsg + 16 := by
  have := message_length_le h
  simp only [pad_length, padCount]
  omega

theorem ecbEncrypt_length (E : Block → Block) (m : List Byte) :
    (ecbEncrypt E m).length = 16 * ((pad m 16).length / 16) := by simp [ecbEncrypt]

theorem cbcEncrypt_length (E : Block → Block) (iv : Block) (m : List Byte) :
    (cbcEncrypt E iv m).length = 16 * ((pad m 16).length / 16) := by simp [cbcEncrypt]

theorem ecbDecryptRaw_length (D : Block → Block) (c : List Byte) :
    (ecbDecryptRaw D c).length = 16 * (c.length / 16) := by simp [ecbDecryptRaw]

theorem cbcDecryptRaw_length (D : Block → Block) (iv : Block) (c : List Byte) :
    (cbcDecryptRaw D iv c).length = 16 * (c.length / 16) := by simp [cbcDecryptRaw]

/-! ### The commands -/

/-- The end of a decryption, of no more bytes than the message has. -/
theorem finishDecrypt_ends_change {s : State} {d : List Byte} (h : ¬ s.overlong = true)
    (hd : d.length = 16 * (s.message.length / 16)) : Ends s (finishDecrypt d s) := by
  have hm := message_length_le h
  rw [finishDecrypt_eq]
  refine .guard fun _ => .succeed (.output _ ?_)
  rw [List.length_take]
  omega

theorem execMakeKey_ends (s : State) : Ends s (execMakeKey s) := by
  refine .ite (fun hlegal => .succeed (.newKey _ _ ?_)) (fun _ => .raise _ .noKey)
  rcases (keyLengthLegal_iff _).mp hlegal with h | h | h <;> simp [h]

theorem execPad_ends (bs : Byte) (s : State) : Ends s (execPad bs s) := by
  refine .guard fun _ => .guard fun _ => .guard fun hfits => .succeed (.output _ ?_)
  rw [pad_length, message_length]
  exact Nat.le_of_not_lt hfits

theorem execKsReset_ends (s : State) : Ends s (execKsReset s) :=
  .guard fun hk => .succeed (.newStream (by simpa using hk) _ _ _)

theorem execKsRead_ends (s : State) : Ends s (execKsRead s) := by
  refine .guard fun _ => .guard fun hlong => .succeed (.streamOutput _ _ ?_)
  have := message_length_le hlong
  rw [message_length] at this
  rw [State.cursorBytes_length, State.inCount]
  omega

/-- What a command can do, success and failure alike (46_control.md R292). -/
theorem exec_ends (i : Instr) (s : State) : Ends s (exec i s) := by
  cases i with
  | nop => exact .succeed .none
  | gfMul | xtime | sbox | invSbox => exact .succeed (.result _)
  | rcon j => exact .guard fun _ => .succeed (.result _)
  | subBytes | invSubBytes | shiftRows | invShiftRows | mixColumns | invMixColumns => exact .succeed (.block _)
  | addRoundKey r => exact .guard fun _ => .guard fun _ => .succeed (.block _)
  | cipher | invCipher => exact .guard fun _ => .succeed (.block _)
  | makeKey => exact execMakeKey_ends s
  | pad bs => exact execPad_ends bs s
  | unpadLen => exact .guard fun _ => .succeed (.result _)
  | encEcb =>
    exact .guard fun _ => .guard fun h => .succeed (.output _ (ecbEncrypt_length _ _ ▸ paddedBlocks_length_le h))
  | encCbc =>
    exact .guard fun _ => .guard fun h => .guard fun _ =>
      .succeed (.output _ (cbcEncrypt_length _ _ _ ▸ paddedBlocks_length_le h))
  | decEcb =>
    exact .guard fun _ => .guard fun h => .guard fun _ => finishDecrypt_ends_change h (ecbDecryptRaw_length _ _)
  | decCbc =>
    exact .guard fun _ => .guard fun h => .guard fun _ => .guard fun _ =>
      finishDecrypt_ends_change h (cbcDecryptRaw_length _ _ _)
  | ctrXform =>
    refine .guard fun _ => .guard fun h => .succeed (.output _ ?_)
    rw [ctrTransform, ctrFrom_length]
    exact Nat.le_add_right_of_le (message_length_le h)
  | ksReset => exact execKsReset_ends s
  | ksRead => exact execKsRead_ends s
  | ksNext => exact .guard fun _ => .succeed (.nextByte _)

/-- What the Engine does with a word, legal or not (R292, 30_encoding.md R105). -/
theorem execute_ends (w : Word) (s : State) : Ends s (execute w s) := by
  rcases decode_cases w with ⟨i, h⟩ | ⟨e, h⟩
  · rw [execute_ok s h]
    exact exec_ends i s
  · rw [execute_error s h]
    exact .error _ s

end Sys2Proof.Machine
end

section
/-! The invariant of every step (10_state.md R23, R39, R40, 00_scope.md R8, R9, 60_exceptions.md R300): settles O46 and O45. -/

namespace Sys2Proof.Machine

/-! ### The part of the invariant a change keeps -/

/-- KEY_VALID, KS_VALID and NR fit together (10_state.md R23), and NR is a legal round count (00_scope.md R8). -/
def State.keyInv (s : State) : Prop :=
  (s.keyValid = false ↔ s.nr = 0) ∧ (s.ksValid = true → s.keyValid = true)
    ∧ (s.nr = 0 ∨ s.nr = 10 ∨ s.nr = 12 ∨ s.nr = 14)

/-- The invariant is the one of the key, that of the buffers, and two facts about BUSY and ERR. -/
theorem State.inv_iff (s : State) :
    s.Inv ↔ s.keyInv ∧ s.memoryInv ∧ (s.busy = true → s.done = false) ∧ s.err.toNat ≤ 7 := by
  unfold State.keyInv State.Inv State.statusInv
  tauto

theorem Err.code_le (e : Err) : e.code.toNat ≤ 7 := by cases e <;> decide

/-- An output that fits keeps OBUF canonical. -/
theorem State.output_memoryInv {s : State} {out : List Byte} (h : s.memoryInv) (hfits : out.length ≤ s.maxMsg + 16) :
    (s.output out).memoryInv := by
  obtain ⟨hmax, hibuf, hobuf⟩ := h
  refine ⟨hmax, hibuf, Memory.writeSeq_wf hobuf (Nat.le_refl _) ?_⟩
  rw [State.output_maxMsg]
  omega

/-- Moving the cursor reaches neither the key nor the buffers. -/
theorem State.advanceCursor_keeps {s : State} (h : s.keyInv ∧ s.memoryInv) :
    s.advanceCursor.keyInv ∧ s.advanceCursor.memoryInv := by
  rw [State.advanceCursor_frame]
  exact h

theorem State.advanceBy_keeps {s : State} (n : Nat) (h : s.keyInv ∧ s.memoryInv) :
    (s.advanceBy n).keyInv ∧ (s.advanceBy n).memoryInv := by
  rw [State.advanceBy_frame]
  exact h

theorem Change.keeps {s u : State} (c : Change s u) (h : s.keyInv ∧ s.memoryInv) : u.keyInv ∧ u.memoryInv := by
  cases c with
  | none => exact h
  | result v => exact h
  | block b => exact h
  | output out hfits => exact ⟨h.1, State.output_memoryInv h.2 hfits⟩
  | nextByte v => exact State.advanceCursor_keeps h
  | streamOutput n out hfits =>
    have ha := State.advanceBy_keeps n h
    exact ⟨ha.1, State.output_memoryInv ha.2 (by rwa [State.advanceBy_maxMsg])⟩
  | newStream hk n c i =>
    obtain ⟨⟨hnr, -, hrounds⟩, hmem⟩ := h
    exact ⟨⟨hnr, fun _ => hk, hrounds⟩, hmem⟩
  | newKey ks nr hnr =>
    refine ⟨⟨?_, fun _ => rfl, .inr hnr⟩, h.2⟩
    rcases hnr with rfl | rfl | rfl <;> simp
  | noKey => exact ⟨⟨by simp, by simp, .inl rfl⟩, h.2⟩

/-- A command that answers a next state gives one that meets the invariant. -/
theorem Ends.keeps_inv {s t : State} {r : Result} (e : Ends s r) (hr : r = .next t) (h : s.Inv) : t.Inv := by
  obtain ⟨hkey, hmem, -, -⟩ := s.inv_iff.mp h
  cases e with
  | succeed c =>
    obtain ⟨hkey, hmem⟩ := c.keeps ⟨hkey, hmem⟩
    rw [succeed_next.mp hr]
    exact (State.inv_iff _).mpr ⟨hkey, hmem, by simp [State.busy], by simp⟩
  | raise e c =>
    obtain ⟨hkey, hmem⟩ := c.keeps ⟨hkey, hmem⟩
    rw [raiseError_next.mp hr]
    exact (State.inv_iff _).mpr ⟨hkey, hmem, by simp [State.busy], e.code_le⟩

/-! ### The Engine, the resets and the Host -/

theorem engineMove_keeps_inv {s t : State} (h : s.Inv) (ht : engineMove s = .next t) : t.Inv := by
  unfold engineMove at ht
  split at ht
  · cases ht
    exact h
  · next w _ => exact (execute_ends w s).keeps_inv ht h

/-- The reset values of the registers meet the invariant whenever the buffers do (10_state.md R48). -/
theorem State.resetRegisters_inv {s : State} (h : s.memoryInv) : s.resetRegisters.Inv :=
  (State.inv_iff _).mpr ⟨⟨by simp [State.resetRegisters], by simp [State.resetRegisters], .inl rfl⟩, h, fun _ => rfl, by
    simp [State.resetRegisters]⟩

theorem State.hardReset_inv {s : State} (h : legalMaxMsg s.maxMsg = true) : s.hardReset.Inv :=
  State.resetRegisters_inv (s := s.hardReset) ⟨h, Memory.empty_wf _ _ _, Memory.empty_wf _ _ _⟩

theorem State.softReset_inv {s : State} (h : s.memoryInv) : s.softReset.Inv := by
  unfold State.softReset
  split
  · obtain ⟨hmax, hibuf, -⟩ := h
    exact State.resetRegisters_inv (s := s.scrambleOutputs) ⟨hmax, hibuf, Memory.empty_wf _ _ _⟩
  · exact State.resetRegisters_inv h

theorem writeCtrl_inv {s : State} (v : Word) (h : s.Inv) : (writeCtrl s v).Inv := by
  unfold writeCtrl
  split
  · exact State.softReset_inv h.2
  · exact h

/-- DONE can always be cleared. -/
theorem State.clearDone_inv {s : State} (h : s.Inv) : { s with done := false }.Inv := by
  obtain ⟨hkey, hmem, -, herr⟩ := s.inv_iff.mp h
  exact (State.inv_iff _).mpr ⟨hkey, hmem, fun _ => rfl, herr⟩

theorem writeStatus_inv {s : State} (v : Word) (h : s.Inv) : (writeStatus s v).Inv := by
  unfold writeStatus
  split
  · exact s.clearDone_inv h
  · exact h

theorem State.start_inv {s : State} (w : Word) (h : s.Inv) : (s.start w).Inv := by
  obtain ⟨hkey, hmem, -, herr⟩ := s.inv_iff.mp h
  exact (State.inv_iff _).mpr ⟨hkey, hmem, fun _ => rfl, herr⟩

theorem writeReg_inv {s : State} (r : Reg) (v : Word) (h : s.Inv) : (writeReg s r v).Inv := by
  cases r with
  | ctrl => exact writeCtrl_inv v h
  | status => exact writeStatus_inv v h
  | cmd => exact s.start_inv v h
  | id | outLen | ksCtrLo | ksCtrHi | ksIdx | result => exact h
  | keyLen | ivLen | inLen | nonceLo | nonceHi | opa | opb => exact h

theorem writeWinByte_wf {base cap : Nat} {m : Memory} (k : Nat) (b : Byte) (h : m.wf base (base + cap)) :
    (writeWinByte base cap m k b).wf base (base + cap) := by
  unfold writeWinByte
  split
  · next hk => exact Memory.write_wf b h (Nat.le_add_right _ _) (Nat.add_lt_add_left hk _)
  · exact h

theorem writeWin_wf {base cap : Nat} {m : Memory} (k : Nat) (v : Word) (h : m.wf base (base + cap)) :
    (writeWin base cap m k v).wf base (base + cap) :=
  writeWinByte_wf _ _ (writeWinByte_wf _ _ (writeWinByte_wf _ _ (writeWinByte_wf _ _ h)))

theorem hostWrite_inv {s : State} (off : Offset) (v : Word) (h : s.Inv) : (hostWrite s off v).Inv := by
  have ⟨hstatus, hmax, hibuf, hobuf⟩ := h
  unfold hostWrite
  cases regionOf off with
  | reg r => exact writeReg_inv r v h
  | keyWin k | ivWin k | blockWin k => exact h
  | ksw i | reserved => exact h
  | ibufWin k => exact ⟨hstatus, hmax, writeWin_wf k v hibuf, hobuf⟩
  | obufWin k => exact ⟨hstatus, hmax, hibuf, writeWin_wf (cap := s.maxMsg + 16) k v hobuf⟩

theorem busRead_keeps_inv {size : AccessSize} {off : Offset} {s t : State} (h : s.Inv)
    (ht : busRead size off s = .next t) : t.Inv := by
  unfold busRead at ht
  split at ht
  · cases ht
  · split at ht
    · cases ht
      exact h
    · cases ht
      exact h

theorem busWrite_keeps_inv {size : AccessSize} {off : Offset} {v : Word} {s t : State} (h : s.Inv)
    (ht : busWrite size off v s = .next t) : t.Inv := by
  unfold busWrite at ht
  split at ht
  · cases ht
  · split at ht
    · cases ht
    · cases ht
      exact hostWrite_inv off v h

theorem happen_keeps_inv {e : Event} {s t : State} (h : s.Inv) (ht : happen e s = .next t) : t.Inv := by
  cases e with
  | engine => exact engineMove_keeps_inv h ht
  | hardReset =>
    cases ht
    exact State.hardReset_inv h.2.1
  | read size off => exact busRead_keeps_inv h ht
  | write size off v => exact busWrite_keeps_inv h ht

/-- Settles O46: the Engine's move, by `exec_ends`, and every Host event keep the invariant. -/
theorem stepKeepsTheInvariant : Obligations.StepKeepsTheInvariant := by
  intro s t h ht
  unfold step at ht
  split at ht
  · exact engineMove_keeps_inv h ht
  · next e rest _ => exact happen_keeps_inv (s := { s with pending := rest }) h ht

/-- Settles O45: the reset state's registers have their reset values and its buffers list no byte. -/
theorem resetMeetsTheInvariant : Obligations.ResetMeetsTheInvariant :=
  State.resetRegisters_inv (s := State.reset) ⟨by decide, Memory.empty_wf _ _ _, Memory.empty_wf _ _ _⟩

end Sys2Proof.Machine
end

section
/-! SUPPORT. What the rows of the address map read and write, stated for any offset of the row (20_memory.md R74, R76). -/

namespace Sys2Proof.Machine

/-! ### From the step to the bus -/

/-- A read statement is one about `hostRead`. -/
theorem readsAs_of_hostRead {off : Offset} {f : State → Word} (ha : off.toNat % 4 = 0)
    (h : ∀ s, hostRead s off = f s) : ReadsAs off f := by
  intro s rest hr hp
  rw [step_read_idle ha hr hp, hostRead_pending, h]

/-- A write statement is one about `hostWrite`. -/
theorem writesTo_of_hostWrite {off : Offset} {f : State → Word → State} (ha : off.toNat % 4 = 0)
    (h : ∀ s v, hostWrite s off v = f s v) : WritesTo off f := by
  intro s v rest hr hp
  rw [step_write_idle ha hr hp, h]

/-- A word read of an offset whose reads are defined while BUSY = 1, busy or not (70_reset_and_hazards.md R351). -/
theorem step_read_readable {s : State} {off : Offset} {rest : List Event} (ha : off.toNat % 4 = 0)
    (hb : readableWhileBusy off = true) (hp : s.pending = .read .word off :: rest) :
    step s = .next { s with pending := rest, readData := hostRead s off } := by
  simp [step, hp, happen, busRead, legalAccess_word ha, hb, hostRead_pending]

/-! ### One equation per row of the address map -/

section Rows
variable {off : Offset} (s : State) (v : Word)

theorem hostRead_reg {r : Reg} (h : regionOf off = .reg r) : hostRead s off = readReg s r := by simp only [hostRead, h]

theorem hostRead_keyWin {k : Nat} (h : regionOf off = .keyWin k) : hostRead s off = lanesFrom (smallByte s.key) k := by
  simp only [hostRead, h]

theorem hostRead_ivWin {k : Nat} (h : regionOf off = .ivWin k) : hostRead s off = lanesFrom (smallByte s.iv) k := by
  simp only [hostRead, h]

theorem hostRead_blockWin {k : Nat} (h : regionOf off = .blockWin k) :
    hostRead s off = lanesFrom (smallByte s.block) k := by simp only [hostRead, h]

theorem hostRead_ksw {i : Nat} (h : regionOf off = .ksw i) : hostRead s off = kswWord s i := by simp only [hostRead, h]

theorem hostRead_ibufWin {k : Nat} (h : regionOf off = .ibufWin k) : hostRead s off = lanesFrom (ibufWinByte s) k := by
  simp only [hostRead, h]

theorem hostRead_obufWin {k : Nat} (h : regionOf off = .obufWin k) : hostRead s off = lanesFrom (obufWinByte s) k := by
  simp only [hostRead, h]

theorem hostRead_reserved (h : regionOf off = .reserved) : hostRead s off = 0 := by simp only [hostRead, h]

theorem hostWrite_reg {r : Reg} (h : regionOf off = .reg r) : hostWrite s off v = writeReg s r v := by
  simp only [hostWrite, h]

theorem hostWrite_keyWin {k : Nat} (h : regionOf off = .keyWin k) :
    hostWrite s off v = { s with key := writeLanes s.key k v } := by simp only [hostWrite, h]

theorem hostWrite_ivWin {k : Nat} (h : regionOf off = .ivWin k) :
    hostWrite s off v = { s with iv := writeLanes s.iv k v } := by simp only [hostWrite, h]

theorem hostWrite_blockWin {k : Nat} (h : regionOf off = .blockWin k) :
    hostWrite s off v = { s with block := writeLanes s.block k v } := by simp only [hostWrite, h]

theorem hostWrite_ksw {i : Nat} (h : regionOf off = .ksw i) : hostWrite s off v = s := by simp only [hostWrite, h]

theorem hostWrite_ibufWin {k : Nat} (h : regionOf off = .ibufWin k) :
    hostWrite s off v = { s with ibuf := writeWin ibufBase s.maxMsg s.ibuf k v } := by simp only [hostWrite, h]

theorem hostWrite_obufWin {k : Nat} (h : regionOf off = .obufWin k) :
    hostWrite s off v = { s with obuf := writeWin obufBase (s.maxMsg + 16) s.obuf k v } := by simp only [hostWrite, h]

theorem hostWrite_reserved (h : regionOf off = .reserved) : hostWrite s off v = s := by simp only [hostWrite, h]

end Rows

/-! ### Lanes (R76) -/

theorem lanesFrom_eq_append (byteOf : Nat → Byte) (k : Nat) :
    lanesFrom byteOf k = byteOf (k + 3) ++ byteOf (k + 2) ++ byteOf (k + 1) ++ byteOf k := wordOfLanes_eq_append _ _ _ _

theorem smallByte_of_lt {n : Nat} (b : Vector Byte n) {k : Nat} (h : k < n) : smallByte b k = b[k] := by
  simp [smallByte, h]

/-- A word read of a small buffer's window. -/
theorem lanesFrom_smallByte {n : Nat} (b : Vector Byte n) {k : Nat} (h : k + 3 < n) :
    lanesFrom (smallByte b) k = b[k + 3] ++ b[k + 2] ++ b[k + 1] ++ b[k] := by
  rw [lanesFrom_eq_append, smallByte_of_lt b h, smallByte_of_lt b (by omega), smallByte_of_lt b (by omega),
    smallByte_of_lt b (by omega)]

/-- A word write to a small buffer's window: byte `i` is lane `i mod 4` in the word written, and kept elsewhere. -/
theorem writeLanes_eq {n : Nat} (b : Vector Byte n) (k : Nat) (v : Word) :
    writeLanes b (4 * k) v = Vector.ofFn fun i => if i.val / 4 = k then (v >>> (8 * (i.val % 4))).setWidth 8 else b[i] := by
  refine Vector.ext fun i hi => ?_
  simp only [writeLanes, Vector.getElem_setIfInBounds, Vector.getElem_ofFn, ← lane_eq_shift, Fin.getElem_fin]
  by_cases hk : i / 4 = k
  · have hlane : i % 4 = 0 ∨ i % 4 = 1 ∨ i % 4 = 2 ∨ i % 4 = 3 := by omega
    rw [if_pos hk]
    rcases hlane with hj | hj | hj | hj
    · simp (disch := omega) only [hj, if_neg, if_pos]
    · simp (disch := omega) only [hj, if_neg, if_pos]
    · simp (disch := omega) only [hj, if_neg, if_pos]
    · simp (disch := omega) only [hj, if_pos]
  · simp (disch := omega) only [if_neg]

theorem writeWinByte_below {base cap : Nat} (m : Memory) {k : Nat} (b : Byte) (h : k < cap) :
    writeWinByte base cap m k b = m.write (base + k) b := if_pos h

theorem writeWinByte_above {base cap : Nat} (m : Memory) {k : Nat} (b : Byte) (h : cap ≤ k) :
    writeWinByte base cap m k b = m := if_neg (Nat.not_lt.mpr h)

/-- A word write to a large buffer's window, wholly below the capacity. -/
theorem writeWin_below {base cap : Nat} (m : Memory) {k : Nat} (v : Word) (h : k + 3 < cap) :
    writeWin base cap m k v =
      (((m.write (base + k) (lane v 0)).write (base + (k + 1)) (lane v 1)).write (base + (k + 2)) (lane v 2)).write
        (base + (k + 3)) (lane v 3) := by
  rw [writeWin, writeWinByte_below _ _ h, writeWinByte_below _ _ (by omega), writeWinByte_below _ _ (by omega),
    writeWinByte_below _ _ (by omega)]

/-- A word write at or above the capacity is ignored (10_state.md R39, R40). -/
theorem writeWin_above {base cap : Nat} (m : Memory) {k : Nat} (v : Word) (h : cap ≤ k) : writeWin base cap m k v = m := by
  rw [writeWin, writeWinByte_above _ _ (by omega), writeWinByte_above _ _ (by omega), writeWinByte_above _ _ (by omega),
    writeWinByte_above _ _ h]

/-- The four bytes of a word written below the capacity are its lanes. -/
theorem read_writeWin_in {base cap : Nat} (m : Memory) {k : Nat} (v : Word) (h : k + 3 < cap) {j : Nat} (hj : j < 4) :
    (writeWin base cap m k v).read (base + (k + j)) = (v >>> (8 * j)).setWidth 8 := by
  rw [writeWin_below m v h, ← lane_eq_shift]
  have hlane : j = 0 ∨ j = 1 ∨ j = 2 ∨ j = 3 := by omega
  rcases hlane with rfl | rfl | rfl | rfl
  · simp (disch := omega) only [Memory.read_write_other, Memory.read_write_same, Nat.add_zero]
  · simp (disch := omega) only [Memory.read_write_other, Memory.read_write_same]
  · simp (disch := omega) only [Memory.read_write_other, Memory.read_write_same]
  · exact Memory.read_write_same _ _ _

/-- Every other byte is kept. -/
theorem read_writeWin_out {base cap : Nat} (m : Memory) {k : Nat} (v : Word) (h : k + 3 < cap) {a : Nat}
    (ha : a < base + k ∨ base + k + 4 ≤ a) : (writeWin base cap m k v).read a = m.read a := by
  rw [writeWin_below m v h]
  simp (disch := omega) only [Memory.read_write_other]

end Sys2Proof.Machine
end

section
/-! The windows of the address map (10_state.md R34 to R41, 20_memory.md R74, R76): settles O54, O55, O56 and O57. -/

namespace Sys2Proof.Machine

/-! ### The small buffers -/

theorem wordOffset_aligned {base k : Nat} (hb : base % 4 = 0) (h : base + 4 * k < 0x40000) :
    (BitVec.ofNat 18 (base + 4 * k)).toNat % 4 = 0 := by
  rw [offset_toNat h]
  omega

/-- The KEY window (R35). -/
theorem keyWindow_lanes {k : Nat} (hk : k < 8) :
    WritesTo (BitVec.ofNat 18 (0x40 + 4 * k)) (fun s v =>
        { s with key := Vector.ofFn fun i => if i.val / 4 = k then (v >>> (8 * (i.val % 4))).setWidth 8 else s.key[i] })
      ∧ ReadsAs (BitVec.ofNat 18 (0x40 + 4 * k)) fun s =>
          s.key[4 * k + 3] ++ s.key[4 * k + 2] ++ s.key[4 * k + 1] ++ s.key[4 * k] := by
  have ha := wordOffset_aligned (base := 0x40) (k := k) rfl (by omega)
  have hrow := regionOf_keyWin (k := 4 * k) (by omega)
  constructor
  · refine writesTo_of_hostWrite ha fun s v => ?_
    rw [hostWrite_keyWin s v hrow, writeLanes_eq]
  · refine readsAs_of_hostRead ha fun s => ?_
    rw [hostRead_keyWin s hrow, lanesFrom_smallByte]

/-- The IV window (R36). -/
theorem ivWindow_lanes {k : Nat} (hk : k < 4) :
    WritesTo (BitVec.ofNat 18 (0x60 + 4 * k)) (fun s v =>
        { s with iv := Vector.ofFn fun i => if i.val / 4 = k then (v >>> (8 * (i.val % 4))).setWidth 8 else s.iv[i] })
      ∧ ReadsAs (BitVec.ofNat 18 (0x60 + 4 * k)) fun s =>
          s.iv[4 * k + 3] ++ s.iv[4 * k + 2] ++ s.iv[4 * k + 1] ++ s.iv[4 * k] := by
  have ha := wordOffset_aligned (base := 0x60) (k := k) rfl (by omega)
  have hrow := regionOf_ivWin (k := 4 * k) (by omega)
  constructor
  · refine writesTo_of_hostWrite ha fun s v => ?_
    rw [hostWrite_ivWin s v hrow, writeLanes_eq]
  · refine readsAs_of_hostRead ha fun s => ?_
    rw [hostRead_ivWin s hrow, lanesFrom_smallByte]

/-- The STATE window (R37). -/
theorem blockWindow_lanes {k : Nat} (hk : k < 4) :
    WritesTo (BitVec.ofNat 18 (0x70 + 4 * k)) (fun s v =>
        { s with
          block := Vector.ofFn fun i => if i.val / 4 = k then (v >>> (8 * (i.val % 4))).setWidth 8 else s.block[i] })
      ∧ ReadsAs (BitVec.ofNat 18 (0x70 + 4 * k)) fun s =>
          s.block[4 * k + 3] ++ s.block[4 * k + 2] ++ s.block[4 * k + 1] ++ s.block[4 * k] := by
  have ha := wordOffset_aligned (base := 0x70) (k := k) rfl (by omega)
  have hrow := regionOf_blockWin (k := 4 * k) (by omega)
  constructor
  · refine writesTo_of_hostWrite ha fun s v => ?_
    rw [hostWrite_blockWin s v hrow, writeLanes_eq]
  · refine readsAs_of_hostRead ha fun s => ?_
    rw [hostRead_blockWin s hrow, lanesFrom_smallByte]

/-- Settles O54, one window at a time. -/
theorem smallBufferWindowLanes : Obligations.SmallBufferWindowLanes := by
  refine ⟨fun k hk => ?_, fun k hk => ?_⟩
  · obtain ⟨hwrite, hread⟩ := keyWindow_lanes hk
    exact ⟨hwrite, fun s rest _ => hread s rest⟩
  · obtain ⟨hivWrite, hivRead⟩ := ivWindow_lanes hk
    obtain ⟨hblockWrite, hblockRead⟩ := blockWindow_lanes hk
    exact ⟨hivWrite, hblockWrite, fun s rest _ hr => ⟨hivRead s rest hr, hblockRead s rest hr⟩⟩

/-! ### The message buffers -/

/-- A word read of the IBUF window below the capacity. -/
theorem lanesFrom_ibufWinByte {s : State} {k : Nat} (h : k + 3 < s.maxMsg) :
    lanesFrom (ibufWinByte s) k = s.ibufByte (k + 3) ++ s.ibufByte (k + 2) ++ s.ibufByte (k + 1) ++ s.ibufByte k := by
  rw [lanesFrom_eq_append]
  simp (disch := omega) only [ibufWinByte, if_pos]

/-- A word read of the OBUF window below the capacity. -/
theorem lanesFrom_obufWinByte {s : State} {k : Nat} (h : k + 3 < s.maxMsg + 16) :
    lanesFrom (obufWinByte s) k = s.obufByte (k + 3) ++ s.obufByte (k + 2) ++ s.obufByte (k + 1) ++ s.obufByte k := by
  rw [lanesFrom_eq_append]
  simp (disch := omega) only [obufWinByte, if_pos]

/-- Settles O55: below the capacity a word is its four bytes, written by `writeWin` and read by `lanesFrom`. -/
theorem messageBufferWindowLanes : Obligations.MessageBufferWindowLanes := by
  intro s k rest hr hk
  refine ⟨fun hcap => ?_, fun hcap => ?_⟩
  · have ha := wordOffset_aligned (base := 0x10000) (k := k) rfl (by omega)
    have hrow := regionOf_ibufWin (k := 4 * k) (by omega)
    refine ⟨fun v hp => ⟨_, step_write_idle ha hr hp, ?_⟩, fun hp => ?_⟩
    · rw [hostWrite_ibufWin _ v hrow]
      exact ⟨rfl, fun j hj => read_writeWin_in _ v hcap hj, fun a => read_writeWin_out _ v hcap⟩
    · rw [step_read_idle ha hr hp, hostRead_pending, hostRead_ibufWin s hrow, lanesFrom_ibufWinByte hcap]
  · have ha := wordOffset_aligned (base := 0x20000) (k := k) rfl (by omega)
    have hrow := regionOf_obufWin (k := 4 * k) (by omega)
    refine ⟨fun v hp => ⟨_, step_write_idle ha hr hp, ?_⟩, fun hp => ?_⟩
    · rw [hostWrite_obufWin _ v hrow]
      exact ⟨rfl, fun j hj => read_writeWin_in _ v hcap hj, fun a => read_writeWin_out _ v hcap⟩
    · rw [step_read_idle ha hr hp, hostRead_pending, hostRead_obufWin s hrow, lanesFrom_obufWinByte hcap]

/-! ### The key schedule -/

theorem ksWord_of_lt (ks : Vector Word 60) {i : Nat} (h : i < 60) : ksWord ks i = ks[i] := by simp [ksWord, h]

/-- Settles O56. -/
theorem keyScheduleWindow : Obligations.KeyScheduleWindow := by
  intro i h
  have ha := wordOffset_aligned (base := 0x100) (k := i) rfl (by omega)
  have hrow := regionOf_ksw h
  refine ⟨readsAs_of_hostRead ha fun s => ?_, writesTo_of_hostWrite ha fun s v => hostWrite_ksw s v hrow⟩
  rw [hostRead_ksw s hrow, kswWord, ksWord_of_lt s.ks h]

/-! ### Reserved offsets and the tails of the windows -/

/-- The bytes of the IBUF window at and above the capacity read 0 (R39). -/
theorem lanesFrom_ibufWinByte_above {s : State} {k : Nat} (h : s.maxMsg ≤ k) : lanesFrom (ibufWinByte s) k = 0 := by
  rw [lanesFrom_eq_append]
  simp (disch := omega) only [ibufWinByte, if_neg]
  rfl

/-- The bytes of the OBUF window at and above the capacity read 0 (R40). -/
theorem lanesFrom_obufWinByte_above {s : State} {k : Nat} (h : s.maxMsg + 16 ≤ k) : lanesFrom (obufWinByte s) k = 0 := by
  rw [lanesFrom_eq_append]
  simp (disch := omega) only [obufWinByte, if_neg]
  rfl

/-- No byte stands at the offset while MAX_MSG is `cap`: it is in a reserved row of the address map (R74), or in a message
window at or above the buffer's capacity. -/
inductive Unbacked (cap : Nat) (off : Offset) : Prop where
  | reserved (hrow : regionOf off = .reserved)
  | ibufTail (k : Nat) (hrow : regionOf off = .ibufWin k) (hk : cap ≤ k)
  | obufTail (k : Nat) (hrow : regionOf off = .obufWin k) (hk : cap + 16 ≤ k)

theorem Unbacked.hostRead_eq_zero {s : State} {off : Offset} (h : Unbacked s.maxMsg off) : hostRead s off = 0 := by
  cases h with
  | reserved hrow => exact hostRead_reserved s hrow
  | ibufTail k hrow hk => rw [hostRead_ibufWin s hrow, lanesFrom_ibufWinByte_above hk]
  | obufTail k hrow hk => rw [hostRead_obufWin s hrow, lanesFrom_obufWinByte_above hk]

theorem Unbacked.hostWrite_eq_self {s : State} {off : Offset} (v : Word) (h : Unbacked s.maxMsg off) :
    hostWrite s off v = s := by
  cases h with
  | reserved hrow => exact hostWrite_reserved s v hrow
  | ibufTail k hrow hk => rw [hostWrite_ibufWin s v hrow, writeWin_above _ _ hk]
  | obufTail k hrow hk => rw [hostWrite_obufWin s v hrow, writeWin_above _ _ hk]

theorem regionOf_reserved {off : Offset}
    (h : (0x80 ≤ off.toNat ∧ off.toNat < 0x100) ∨ (0x1F0 ≤ off.toNat ∧ off.toNat < 0x10000) ∨ 0x30000 ≤ off.toNat) :
    regionOf off = .reserved := by
  rcases h with h | h | h
  · simp (disch := omega) only [regionOf, if_neg, if_pos]
  · simp (disch := omega) only [regionOf, if_neg, if_pos]
  · simp (disch := omega) only [regionOf, if_neg]

/-- The bounds of the reserved rows and of the tails (R39, R40, R74). -/
theorem unbacked_of_toNat {cap : Nat} {off : Offset}
    (h : (0x80 ≤ off.toNat ∧ off.toNat < 0x100) ∨ (0x1F0 ≤ off.toNat ∧ off.toNat < 0x10000)
      ∨ (0x10000 + cap ≤ off.toNat ∧ 0x10000 ≤ off.toNat ∧ off.toNat < 0x20000)
      ∨ (0x20000 + cap + 16 ≤ off.toNat ∧ off.toNat < 0x30000) ∨ 0x30000 ≤ off.toNat) : Unbacked cap off := by
  rcases h with h | h | ⟨hlow, -, htop⟩ | ⟨hlow, htop⟩ | h
  · exact .reserved (regionOf_reserved (.inl h))
  · exact .reserved (regionOf_reserved (.inr (.inl h)))
  · have hrow := regionOf_ibufWin (k := off.toNat - 0x10000) (by omega)
    rw [Nat.add_sub_cancel' (by omega), BitVec.ofNat_toNat, BitVec.setWidth_eq] at hrow
    exact .ibufTail _ hrow (by omega)
  · have hrow := regionOf_obufWin (k := off.toNat - 0x20000) (by omega)
    rw [Nat.add_sub_cancel' (by omega), BitVec.ofNat_toNat, BitVec.setWidth_eq] at hrow
    exact .obufTail _ hrow (by omega)
  · exact .reserved (regionOf_reserved (.inr (.inr h)))

/-- Settles O57: at such an offset a read gives 0 and a write keeps the state. -/
theorem reservedOffsetsReadZero : Obligations.ReservedOffsetsReadZero := by
  intro off s v rest ha hr h
  have hnone := unbacked_of_toNat h
  refine ⟨fun hp => ?_, fun hp => ?_⟩
  · rw [step_read_idle ha hr hp, hostRead_pending, hnone.hostRead_eq_zero]
  · exact (step_write_idle ha hr hp).trans (congrArg _ (Unbacked.hostWrite_eq_self v hnone))

end Sys2Proof.Machine
end

section
/-! The registers (10_state.md R21 to R33, R48, 60_exceptions.md R321): settles O51, O52, O53 and O60. -/

namespace Sys2Proof.Machine

/-! ### Reads -/

/-- A read of a register, at its offset of the register map. -/
theorem readsAs_reg {off : Offset} {r : Reg} {f : State → Word} (ha : off.toNat % 4 = 0) (hrow : regionOf off = .reg r)
    (h : ∀ s, readReg s r = f s) : ReadsAs off f :=
  readsAs_of_hostRead ha fun s => (hostRead_reg s hrow).trans (h s)

theorem ctrlWord_eq (s : State) : ctrlWord s = if s.irqEn = true then 1 else 0 := by
  unfold ctrlWord
  cases s.irqEn <;> rfl

/-- The high half of a 64-bit counter. -/
theorem extractLsb'_high (c : U64) : c.extractLsb' 32 32 = (c >>> 32).setWidth 32 := by
  ext i hi
  simp

/-- Settles O51, register by register. -/
theorem registerReads : Obligations.RegisterReads :=
  ⟨readsAs_reg rfl rfl fun _ => rfl, readsAs_reg rfl rfl ctrlWord_eq, readsAs_reg rfl rfl fun _ => rfl,
    readsAs_reg rfl rfl fun _ => rfl, readsAs_reg rfl rfl fun _ => rfl, readsAs_reg rfl rfl fun _ => rfl,
    readsAs_reg rfl rfl fun _ => rfl, readsAs_reg rfl rfl fun _ => rfl, readsAs_reg rfl rfl fun _ => rfl,
    readsAs_reg rfl rfl fun s => (BitVec.setWidth_eq_extractLsb' (by decide)).symm,
    readsAs_reg rfl rfl fun s => extractLsb'_high s.ksCtr, readsAs_reg rfl rfl fun _ => rfl,
    readsAs_reg rfl rfl fun _ => rfl, readsAs_reg rfl rfl fun _ => rfl, readsAs_reg rfl rfl fun _ => rfl⟩

/-- Bit `i` of a flag at bit `k`. -/
theorem flagBit_getLsbD (b : Bool) (k : Nat) {i : Nat} (hi : i < 32) :
    (flagBit b k).getLsbD i = (decide (i = k) && b) := by
  simp only [flagBit, BitVec.getLsbD_shiftLeft, BitVec.getLsbD_setWidth, BitVec.getLsbD_ofBool]
  by_cases h : i = k
  · simp [h, show k < 32 by omega]
  · by_cases hlt : i < k
    · simp [h, hlt]
    · simp [h, show i - k ≠ 0 by omega]

/-- Bit `i` of STATUS (R23). -/
theorem statusWord_getLsbD (s : State) {i : Nat} (hi : i < 32) :
    (statusWord s).getLsbD i =
      (decide (i = 0) && s.busy || decide (i = 1) && s.done || decide (i = 2) && s.keyValid || decide (i = 3) && s.ksValid
        || !decide (i < 4) && s.err.getLsbD (i - 4) || !decide (i < 8) && s.nr.getLsbD (i - 8)) := by
  simp only [statusWord, BitVec.getLsbD_or, flagBit_getLsbD _ _ hi, BitVec.getLsbD_shiftLeft, BitVec.getLsbD_setWidth]
  simp [hi, show i - 4 < 32 by omega, show i - 8 < 32 by omega]

/-- STATUS[7:4] is ERR. -/
theorem statusWord_err (s : State) : (statusWord s).extractLsb' 4 4 = s.err := by
  ext i hi
  rw [BitVec.getElem_extractLsb', statusWord_getLsbD s (by omega)]
  simp [show 4 + i ≠ 1 by omega, show 4 + i ≠ 2 by omega, show 4 + i ≠ 3 by omega,
    show 4 + i < 8 by omega, BitVec.getLsbD_eq_getElem hi]

/-- STATUS[11:8] is NR. -/
theorem statusWord_nr (s : State) : (statusWord s).extractLsb' 8 4 = s.nr := by
  ext i hi
  rw [BitVec.getElem_extractLsb', statusWord_getLsbD s (by omega)]
  simp [show 8 + i ≠ 1 by omega, show 8 + i ≠ 2 by omega, show 8 + i ≠ 3 by omega,
    BitVec.getLsbD_of_ge s.err (8 + i - 4) (by omega), BitVec.getLsbD_eq_getElem hi]

/-- STATUS[31:12] reads 0. -/
theorem statusWord_reserved (s : State) : (statusWord s).extractLsb' 12 20 = 0 := by
  ext i hi
  rw [BitVec.getElem_extractLsb', statusWord_getLsbD s (by omega)]
  simp [show 12 + i ≠ 1 by omega, show 12 + i ≠ 2 by omega, show 12 + i ≠ 3 by omega,
    BitVec.getLsbD_of_ge s.err (12 + i - 4) (by omega), BitVec.getLsbD_of_ge s.nr (12 + i - 8) (by omega)]

/-- Settles O52: STATUS may be read while BUSY = 1 too, and it reads as `statusWord`. -/
theorem statusReadsItsFields : Obligations.StatusReadsItsFields := by
  intro s rest hp
  refine ⟨statusWord s, ?_, ?_, ?_, ?_, ?_, statusWord_err s, statusWord_nr s, statusWord_reserved s⟩
  · rw [step_read_readable rfl rfl hp, hostRead_reg s (r := .status) rfl, readReg]
  · rw [statusWord_getLsbD s (by decide)]
    simp
  · rw [statusWord_getLsbD s (by decide)]
    simp
  · rw [statusWord_getLsbD s (by decide)]
    simp
  · rw [statusWord_getLsbD s (by decide)]
    simp

/-! ### Writes -/

/-- A write to a register, at its offset of the register map. -/
theorem writesTo_reg {off : Offset} {r : Reg} {f : State → Word → State} (ha : off.toNat % 4 = 0)
    (hrow : regionOf off = .reg r) (h : ∀ s v, writeReg s r v = f s v) : WritesTo off f :=
  writesTo_of_hostWrite ha fun s v => (hostWrite_reg s v hrow).trans (h s v)

/-- A write to STATUS clears DONE when bit 1 is set (R23). -/
theorem writeStatus_eq (s : State) (v : Word) : writeStatus s v = { s with done := s.done && !v.getLsbD 1 } := by
  unfold writeStatus
  cases v.getLsbD 1 <;> simp

/-- A write to CTRL without the soft reset (R22). -/
theorem writeCtrl_of_not_srst (s : State) {v : Word} (h : v.getLsbD 1 = false) :
    writeCtrl s v = { s with irqEn := v.getLsbD 0 } := by
  rw [writeCtrl, if_neg (by rw [h]; decide)]

/-- ID, OUT_LEN, KS_CTR, KS_IDX and RESULT ignore a write (R21, R28, R30, R31, R32). -/
theorem writesTo_readOnly (off : Offset)
    (h : off = 0x000 ∨ off = 0x01C ∨ off = 0x028 ∨ off = 0x02C ∨ off = 0x030 ∨ off = 0x034) :
    WritesTo off (fun s _ => s) := by
  rcases h with rfl | rfl | rfl | rfl | rfl | rfl <;> exact writesTo_reg rfl rfl fun _ _ => rfl

/-- Settles O53, register by register. -/
theorem registerWrites : Obligations.RegisterWrites := by
  refine ⟨writesTo_reg (r := .keyLen) rfl rfl fun s v => ?_, writesTo_reg (r := .ivLen) rfl rfl fun s v => ?_,
    writesTo_reg rfl rfl fun _ _ => rfl, writesTo_reg rfl rfl fun _ _ => rfl, writesTo_reg rfl rfl fun _ _ => rfl,
    writesTo_reg (r := .opa) rfl rfl fun s v => ?_, writesTo_reg (r := .opb) rfl rfl fun s v => ?_,
    writesTo_readOnly, writesTo_reg rfl rfl writeStatus_eq, fun s v rest hr hp hv => ?_⟩
  · rw [writeReg, lane_zero]
  · rw [writeReg, lane_zero]
  · rw [writeReg, lane_zero]
  · rw [writeReg, lane_zero]
  · rw [step_write_idle rfl hr hp, hostWrite_reg _ v (r := .ctrl) rfl, writeReg, writeCtrl_of_not_srst _ hv]

/-- Settles O60. -/
theorem resetRegistersAreZero : Obligations.ResetRegistersAreZero := by
  refine ⟨rfl, rfl, rfl, rfl, rfl, rfl, rfl, rfl, rfl, rfl, rfl, rfl, rfl, rfl, rfl, rfl, rfl, rfl, rfl, rfl, ?_, ?_⟩
  · decide
  · decide

end Sys2Proof.Machine
end

section
/-! Which Host accesses the machine answers (20_memory.md R73, 70_reset_and_hazards.md R350), and that nothing else stops a step
(46_control.md R291): settles O48 and O47. -/

namespace Sys2Proof.Machine

/-! ### One access -/

/-- The unsupported accesses: a narrower size, or an offset that is not a multiple of 4 (R73). -/
theorem legalAccess_eq_false_iff {size : AccessSize} {off : Offset} :
    legalAccess size off = false ↔ size ≠ .word ∨ off.toNat % 4 ≠ 0 := by
  simp only [legalAccess, Bool.and_eq_false_iff, beq_eq_false_iff_ne]

/-- An unsupported read is a bus error, busy or not (R73). -/
theorem busRead_of_illegal {size : AccessSize} {off : Offset} (s : State) (h : legalAccess size off = false) :
    busRead size off s = .fault .busAccessError := by
  simp [busRead, h]

/-- An unsupported write is a bus error before R350 is asked (R73; log 8). -/
theorem busWrite_of_illegal {size : AccessSize} {off : Offset} (v : Word) (s : State) (h : legalAccess size off = false) :
    busWrite size off v s = .fault .busAccessError := by
  simp [busWrite, h]

/-- A word read is answered, while BUSY = 1 with a free value at most offsets (R71, R351). -/
theorem busRead_of_legal {size : AccessSize} {off : Offset} (s : State) (h : legalAccess size off = true) :
    ∃ t, busRead size off s = .next t := by
  rw [busRead, if_neg (by simp [h])]
  split
  · exact ⟨_, rfl⟩
  · exact ⟨_, rfl⟩

/-- A word write has its effect unless R350 forbids it. -/
theorem busWrite_of_legal {size : AccessSize} {off : Offset} (v : Word) (s : State) (h : legalAccess size off = true) :
    busWrite size off v s =
      if s.busy && !writableWhileBusy off then .fault .hostWriteWhileBusy else .next (hostWrite s off v) := by
  rw [busWrite, if_neg (by simp [h])]

/-! ### The Engine's move -/

/-- A success and an error both complete the command. -/
theorem Ends.next {s : State} {r : Result} (h : Ends s r) : ∃ t, r = .next t := by
  cases h with
  | succeed _ => exact ⟨_, rfl⟩
  | raise _ _ => exact ⟨_, rfl⟩

/-- The Engine always answers: every command word completes (R291), and an idle Engine keeps all state. -/
theorem engineMove_next (s : State) : ∃ t, engineMove s = .next t := by
  unfold engineMove
  split
  · exact ⟨s, rfl⟩
  · next w _ => exact (execute_ends w s).next

/-! ### One event -/

/-- Whether an event is supported does not depend on the events after it. -/
theorem supported_pending (s : State) (rest : List Event) (e : Event) :
    supported { s with pending := rest } e = supported s e :=
  rfl

/-- A supported event is answered with a next state. -/
theorem happen_of_supported {e : Event} {s : State} (h : supported s e = true) : ∃ t, happen e s = .next t := by
  cases e with
  | engine => exact engineMove_next s
  | hardReset => exact ⟨s.hardReset, rfl⟩
  | read size off => exact busRead_of_legal s h
  | write size off v =>
    obtain ⟨hlegal, hallowed⟩ : legalAccess size off = true ∧ (s.busy = false ∨ writableWhileBusy off = true) := by
      simpa [supported] using h
    refine ⟨hostWrite s off v, (busWrite_of_legal v s hlegal).trans (if_neg ?_)⟩
    rcases hallowed with hidle | hwritable
    · simp [hidle]
    · simp [hwritable]

/-- An event that is not supported is a fault. -/
theorem happen_of_unsupported {e : Event} {s : State} (h : supported s e = false) : ∃ f, happen e s = .fault f := by
  cases e with
  | engine => cases h
  | hardReset => cases h
  | read size off => exact ⟨_, busRead_of_illegal s h⟩
  | write size off v =>
    cases hlegal : legalAccess size off with
    | false => exact ⟨_, busWrite_of_illegal v s hlegal⟩
    | true =>
      refine ⟨_, (busWrite_of_legal v s hlegal).trans (if_pos ?_)⟩
      simpa [supported, hlegal] using h

/-! ### The step -/

/-- With nothing pending the Engine moves. -/
theorem step_of_pending_nil {s : State} (hp : s.pending = []) : step s = engineMove s := by
  simp only [step, hp]

/-- Otherwise the oldest pending event happens. -/
theorem step_of_pending_cons {s : State} {e : Event} {rest : List Event} (hp : s.pending = e :: rest) :
    step s = happen e { s with pending := rest } := by
  simp only [step, hp]

/-- A step answers a next state exactly when the event it takes is supported. -/
theorem step_next_iff_supported {s : State} {e : Event} {rest : List Event} (hp : s.pending = e :: rest) :
    (∃ t, step s = .next t) ↔ supported s e = true := by
  rw [step_of_pending_cons hp, ← supported_pending s rest e]
  cases h : supported { s with pending := rest } e with
  | true => exact iff_of_true (happen_of_supported h) rfl
  | false =>
    obtain ⟨f, hf⟩ := happen_of_unsupported h
    simp [hf]

/-- No event is refused: the answer is a next state or a fault. -/
theorem happen_ne_refused (e : Event) (s : State) (r : Refusal) : happen e s ≠ .refused r := by
  cases h : supported s e with
  | true =>
    obtain ⟨t, ht⟩ := happen_of_supported h
    simp [ht]
  | false =>
    obtain ⟨f, hf⟩ := happen_of_unsupported h
    simp [hf]

/-- Settles O48: `busRead` and `busWrite` check the access before anything of the state. -/
theorem unsupportedAccessIsABusError : Obligations.UnsupportedAccessIsABusError := by
  intro s size off v rest h
  have hillegal := legalAccess_eq_false_iff.mpr h
  exact ⟨fun hp => (step_of_pending_cons hp).trans (busRead_of_illegal _ hillegal),
    fun hp => (step_of_pending_cons hp).trans (busWrite_of_illegal v _ hillegal)⟩

/-- Settles O47: the Engine always answers, by `exec_ends`, and a Host event does exactly when it is supported. -/
theorem stepStopsOnlyOnUnsupportedAccess : Obligations.StepStopsOnlyOnUnsupportedAccess := by
  refine fun s => ⟨fun hp => step_of_pending_nil hp ▸ engineMove_next s, fun _ _ hp => step_next_iff_supported hp, fun r => ?_⟩
  cases hp : s.pending with
  | nil =>
    obtain ⟨t, ht⟩ := engineMove_next s
    simp [step_of_pending_nil hp, ht]
  | cons e rest => exact step_of_pending_cons hp ▸ happen_ne_refused e _ r

end Sys2Proof.Machine
end

section
/-! The command words: decoding and encoding undo each other (30_encoding.md R100 to R106), and every word R106 refuses completes
with IllegalCommand (R105): settles O1, O2, O3 and O4. -/

namespace Sys2Proof.Machine

/-! ### The opcode table (R104) -/

/-- The row at a command's OPCODE, with its ARG8 put in, is the command. -/
theorem rowAt_opcode (i : Instr) : rowAt i.opcode.toNat i.arg8 = some i := by
  cases i <;> rfl

/-- ARG8 of a command is legal for its row exactly when the command is well formed (R102). -/
theorem argLegal_opcode (i : Instr) : argLegal i.opcode.toNat i.arg8 = i.wellFormed := by
  cases i <;> rfl

/-- A row is found only at its command's OPCODE, and a legal ARG8 is the command's: 0 where it takes none. -/
theorem opcode_arg8_of_rowAt {opc : Nat} {arg : Byte} {i : Instr} (h : rowAt opc arg = some i) :
    opc = i.opcode.toNat ∧ (argLegal opc arg = true → arg = i.arg8) := by
  unfold rowAt at h
  split at h <;> cases h
  -- PAD, RCON and ADD_ROUND_KEY hold ARG8 as it stands.
  case h_13 | h_19 | h_26 => exact ⟨rfl, fun _ => rfl⟩
  all_goals exact ⟨rfl, fun harg => beq_iff_eq.mp harg⟩

/-- Settles O1: the three fields of the encoded word pass R106's three checks. -/
theorem decodeOfEncodeGivesTheCommand : Obligations.DecodeOfEncodeGivesTheCommand := by
  intro i hwf
  obtain ⟨hopc, harg, hrsvd⟩ := fields_of_word i.opcode i.arg8
  refine decode_of_fields (w := encode i) hrsvd ?_ ?_
  · rw [encode, hopc, harg, rowAt_opcode]
  · rw [encode, hopc, harg, argLegal_opcode, hwf]

/-- Settles O2: the fields of a word that decodes are the command's, and a word with RSVD = 0 is made of its other fields. -/
theorem encodeOfDecodeGivesTheWord : Obligations.EncodeOfDecodeGivesTheWord := by
  intro w i h
  obtain ⟨hrsvd, hrow, hlegal⟩ := decode_ok h
  obtain ⟨hopc, harg⟩ := opcode_arg8_of_rowAt hrow
  have harg := harg hlegal
  rw [hopc, harg, argLegal_opcode] at hlegal
  refine ⟨hlegal, ?_⟩
  rw [encode, ← BitVec.eq_of_toNat_eq hopc, ← harg, word_of_fields w hrsvd]

/-- Settles O3. -/
theorem tableWordsDecodeToTheirCommands : Obligations.TableWordsDecodeToTheirCommands :=
  ⟨rfl, rfl, rfl, rfl, rfl, rfl, rfl, rfl, rfl⟩

/-! ### The fields as numbers (R100) -/

theorem opcodeField_toNat (w : Word) : (opcodeField w).toNat = w.toNat % 256 := by
  simp [opcodeField]

theorem argField_toNat (w : Word) : (argField w).toNat = w.toNat / 256 % 256 := by
  simp [argField, Nat.shiftRight_eq_div_pow]

theorem rsvdField_eq_zero_iff (w : Word) : rsvdField w = 0 ↔ w.toNat / 65536 = 0 := by
  have := w.isLt
  rw [← BitVec.toNat_inj, rsvdField, BitVec.extractLsb'_toNat, Nat.shiftRight_eq_div_pow]
  simp
  omega

/-! ### The illegal words (R105) -/

/-- The OPCODEs outside R104's table. -/
theorem rowAt_eq_none_iff (opc : Nat) (arg : Byte) :
    rowAt opc arg = none ↔
      ¬(opc ≤ 0x09 ∨ (0x10 ≤ opc ∧ opc ≤ 0x13) ∨ (0x20 ≤ opc ∧ opc ≤ 0x24) ∨ (0x30 ≤ opc ∧ opc ≤ 0x36)) := by
  rw [← not_iff_not, not_not]
  constructor
  · intro h
    obtain ⟨i, hrow⟩ := Option.ne_none_iff_exists'.mp h
    rw [(opcode_arg8_of_rowAt hrow).1]
    cases i <;> simp [Instr.opcode]
  · rintro (h | ⟨hlow, htop⟩ | ⟨hlow, htop⟩ | ⟨hlow, htop⟩) <;> interval_cases opc <;> exact Option.some_ne_none _

/-- The illegal values of ARG8 (R102). -/
theorem argLegal_eq_false_iff (opc : Nat) (arg : Byte) :
    argLegal opc arg = false ↔
      (opc = 0x12 ∧ arg.toNat = 0) ∨ (opc = 0x24 ∧ (arg.toNat = 0 ∨ 10 < arg.toNat))
        ∨ (opc ≠ 0x12 ∧ opc ≠ 0x24 ∧ opc ≠ 0x36 ∧ arg.toNat ≠ 0) := by
  unfold argLegal
  split
  · simp [← BitVec.toNat_inj]
  · simp
    omega
  · simp
  · next hpad hrcon hadd =>
    simp [show opc ≠ 0x12 from hpad, show opc ≠ 0x24 from hrcon, show opc ≠ 0x36 from hadd, ← BitVec.toNat_inj]

/-- Decoding refuses a word exactly when one of R106's three checks fails. -/
theorem decode_error_iff (w : Word) :
    (∃ e, decode w = .error e) ↔
      rsvdField w ≠ 0 ∨ rowAt (opcodeField w).toNat (argField w) = none
        ∨ argLegal (opcodeField w).toNat (argField w) = false := by
  unfold decode
  split
  · next h => exact iff_of_true ⟨_, rfl⟩ (.inl h)
  · next h =>
    split
    · next hrow => exact iff_of_true ⟨_, rfl⟩ (.inr (.inl hrow))
    · next i hrow =>
      split
      · next hlegal => simp [not_not.mp h, hrow, hlegal]
      · next hlegal => exact iff_of_true ⟨_, rfl⟩ (.inr (.inr (Bool.eq_false_of_not_eq_true hlegal)))

/-- An error that writes nothing of its own (60_exceptions.md R312). -/
theorem raiseError_eq (e : Err) (s : State) : raiseError e s = .next (s.failedWith e.code) := rfl

/-- ADD_ROUND_KEY with a round above NR, once a key is valid (42_round_transforms.md R196). -/
theorem execAddRoundKey_of_nr_lt {r : Byte} {s : State} (hkey : s.keyValid = true) (hround : s.nr.toNat < r.toNat) :
    execAddRoundKey r s = raiseError .illegalCommand s := by
  rw [execAddRoundKey, if_neg (by simp [hkey]), argNat, if_pos hround]

/-- Settles O4: R106's checks are conditions on the three fields, and these are quotients and remainders of the word. -/
theorem illegalWordsCompleteWithIllegalCommand : Obligations.IllegalWordsCompleteWithIllegalCommand := by
  intro w s opc arg known argBad
  have hopc : (opcodeField w).toNat = opc := opcodeField_toNat w
  have harg : (argField w).toNat = arg := argField_toNat w
  have hillegal : (w.toNat / 65536 ≠ 0 ∨ ¬known ∨ argBad) ↔ ∃ e, decode w = .error e := by
    rw [decode_error_iff, ne_eq (rsvdField w), rsvdField_eq_zero_iff, rowAt_eq_none_iff, argLegal_eq_false_iff, hopc, harg]
  refine ⟨hillegal, fun h => ?_, fun hrsvd haddkey hkey hround => ?_⟩
  · obtain ⟨e, he⟩ := hillegal.mp h
    rw [execute_error s he, raiseError_eq]
    rfl
  · have hdecode : decode w = .ok (.addRoundKey (argField w)) := by
      refine decode_of_fields ((rsvdField_eq_zero_iff w).mpr hrsvd) ?_ ?_
      · rw [hopc, haddkey, rowAt]
      · rw [hopc, haddkey, argLegal]
    exact (execute_ok s hdecode).trans (execAddRoundKey_of_nr_lt hkey (harg ▸ hround))

end Sys2Proof.Machine
end

section
/-! The frame of the commands: which fields each one may write (30_encoding.md R103, 10_state.md R28 to R40, 41_key_schedule.md
R166): settles O44. -/

namespace Sys2Proof.Machine

/-! ### The outputs of a command -/

/-- `s` with the fields that command `i` names as its outputs taken from `u`. -/
def withOutputsOf (i : Instr) (s u : State) : State :=
  match i with
  | .nop => s
  | .gfMul | .xtime | .sbox | .invSbox | .rcon _ | .unpadLen => { s with result := u.result }
  | .subBytes | .invSubBytes | .shiftRows | .invShiftRows | .mixColumns | .invMixColumns | .addRoundKey _
  | .cipher | .invCipher => { s with block := u.block }
  | .encEcb | .decEcb | .encCbc | .decCbc | .ctrXform | .pad _ => { s with obuf := u.obuf, outLen := u.outLen }
  | .ksRead => { s with ksCtr := u.ksCtr, ksIdx := u.ksIdx, obuf := u.obuf, outLen := u.outLen }
  | .ksNext => { s with ksCtr := u.ksCtr, ksIdx := u.ksIdx, result := u.result }
  | .ksReset => { s with ksNonce := u.ksNonce, ksCtr := u.ksCtr, ksIdx := u.ksIdx, ksValid := u.ksValid }
  | .makeKey => { s with ksValid := u.ksValid, ks := u.ks, keyValid := u.keyValid, nr := u.nr }

@[simp] theorem withOutputsOf_self (i : Instr) (s : State) : withOutputsOf i s s = s := by
  cases i <;> rfl

/-- The answer is a success or an error, after a change of the command's own outputs only. -/
inductive EndsWithin (i : Instr) (s : State) : Result → Prop where
  | succeed {u : State} (h : withOutputsOf i s u = u) : EndsWithin i s (succeed u)
  | raise (e : Err) {u : State} (h : withOutputsOf i s u = u) : EndsWithin i s (raiseError e u)

/-- A check that ends in an error when it fails the command. -/
theorem EndsWithin.guard {i : Instr} {s : State} {c : Prop} [Decidable c] {e : Err} {b : Result} (hb : EndsWithin i s b) :
    EndsWithin i s (if c then raiseError e s else b) := by
  split
  · exact .raise e (withOutputsOf_self i s)
  · exact hb

theorem finishDecrypt_endsWithin {i : Instr} (h : i = .decEcb ∨ i = .decCbc) (d : List Byte) (s : State) :
    EndsWithin i s (finishDecrypt d s) := by
  rw [finishDecrypt_eq]
  rcases h with rfl | rfl <;> exact .guard (.succeed rfl)

theorem execMakeKey_endsWithin (s : State) : EndsWithin .makeKey s (execMakeKey s) := by
  unfold execMakeKey
  split
  · exact .succeed rfl
  · exact .raise _ rfl

theorem execKsRead_endsWithin (s : State) : EndsWithin .ksRead s (execKsRead s) := by
  refine .guard (.guard (.succeed ?_))
  rw [State.advanceBy_frame]
  rfl

theorem execKsNext_endsWithin (s : State) : EndsWithin .ksNext s (execKsNext s) := by
  refine .guard (.succeed ?_)
  rw [State.advanceCursor_frame]
  rfl

/-- Every command writes its own outputs and then succeeds or fails (46_control.md R292). -/
theorem exec_endsWithin (i : Instr) (s : State) : EndsWithin i s (exec i s) := by
  cases i with
  | nop => exact .succeed rfl
  | gfMul | xtime | sbox | invSbox => exact .succeed rfl
  | rcon j => exact .guard (.succeed rfl)
  | subBytes | invSubBytes | shiftRows | invShiftRows | mixColumns | invMixColumns => exact .succeed rfl
  | addRoundKey r => exact .guard (.guard (.succeed rfl))
  | cipher | invCipher => exact .guard (.succeed rfl)
  | makeKey => exact execMakeKey_endsWithin s
  | pad bs => exact .guard (.guard (.guard (.succeed rfl)))
  | unpadLen => exact .guard (.succeed rfl)
  | encEcb | ctrXform => exact .guard (.guard (.succeed rfl))
  | encCbc => exact .guard (.guard (.guard (.succeed rfl)))
  | decEcb => exact .guard (.guard (.guard (finishDecrypt_endsWithin (.inl rfl) _ s)))
  | decCbc => exact .guard (.guard (.guard (.guard (finishDecrypt_endsWithin (.inr rfl) _ s))))
  | ksReset => exact .guard (.succeed rfl)
  | ksRead => exact execKsRead_endsWithin s
  | ksNext => exact execKsNext_endsWithin s

/-! ### What is no output of a command -/

/-- The inputs, KEY, IV, IBUF, IRQ_EN and the model's own fields are no command's output (30_encoding.md R103). -/
theorem withOutputsOf_inputs (i : Instr) (s u : State) :
    let w := withOutputsOf i s u
    w.maxMsg = s.maxMsg ∧ w.irqEn = s.irqEn ∧ w.keyLen = s.keyLen ∧ w.ivLen = s.ivLen ∧ w.inLen = s.inLen
      ∧ w.nonceLo = s.nonceLo ∧ w.nonceHi = s.nonceHi ∧ w.opa = s.opa ∧ w.opb = s.opb ∧ w.key = s.key ∧ w.iv = s.iv
      ∧ w.ibuf = s.ibuf ∧ w.pending = s.pending ∧ w.readData = s.readData ∧ w.draws = s.draws := by
  cases i <;> exact ⟨rfl, rfl, rfl, rfl, rfl, rfl, rfl, rfl, rfl, rfl, rfl, rfl, rfl, rfl, rfl⟩

section
variable {i : Instr} (s u : State)

/-- The key schedule is MAKE_KEY's output (41_key_schedule.md R166). -/
theorem withOutputsOf_schedule (h : i ≠ .makeKey) :
    (withOutputsOf i s u).ks = s.ks ∧ (withOutputsOf i s u).nr = s.nr
      ∧ (withOutputsOf i s u).keyValid = s.keyValid := by
  cases i with
  | makeKey => exact absurd rfl h
  | _ => exact ⟨rfl, rfl, rfl⟩

/-- The keystream commands move the cursor (10_state.md R30, R31). -/
theorem withOutputsOf_cursor (hreset : i ≠ .ksReset) (hread : i ≠ .ksRead) (hnext : i ≠ .ksNext) :
    (withOutputsOf i s u).ksCtr = s.ksCtr ∧ (withOutputsOf i s u).ksIdx = s.ksIdx := by
  cases i with
  | ksReset => exact absurd rfl hreset
  | ksRead => exact absurd rfl hread
  | ksNext => exact absurd rfl hnext
  | _ => exact ⟨rfl, rfl⟩

/-- KS_NONCE is KS_RESET's output (R45). -/
theorem withOutputsOf_ksNonce (h : i ≠ .ksReset) : (withOutputsOf i s u).ksNonce = s.ksNonce := by
  cases i with
  | ksReset => exact absurd rfl h
  | _ => rfl

/-- The buffer STATE is the output of the cipher and the round commands (R37). -/
theorem withOutputsOf_block
    (h : i ∉ [.cipher, .invCipher, .subBytes, .invSubBytes, .shiftRows, .invShiftRows, .mixColumns, .invMixColumns])
    (hadd : ∀ r, i ≠ .addRoundKey r) : (withOutputsOf i s u).block = s.block := by
  cases i with
  | cipher | invCipher | subBytes | invSubBytes | shiftRows | invShiftRows | mixColumns | invMixColumns => simp at h
  | addRoundKey r => exact absurd rfl (hadd r)
  | _ => rfl

/-- OBUF and OUT_LEN are the output of the modes, KS_READ and PAD (R28, R40). -/
theorem withOutputsOf_obuf (h : i ∉ [.encEcb, .decEcb, .encCbc, .decCbc, .ctrXform, .ksRead]) (hpad : ∀ bs, i ≠ .pad bs) :
    (withOutputsOf i s u).obuf = s.obuf ∧ (withOutputsOf i s u).outLen = s.outLen := by
  cases i with
  | encEcb | decEcb | encCbc | decCbc | ctrXform | ksRead => simp at h
  | pad bs => exact absurd rfl (hpad bs)
  | _ => exact ⟨rfl, rfl⟩

/-- RESULT is the output of the commands that return one number (R32). -/
theorem withOutputsOf_result (h : i ∉ [.gfMul, .xtime, .sbox, .invSbox, .ksNext, .unpadLen]) (hrcon : ∀ j, i ≠ .rcon j) :
    (withOutputsOf i s u).result = s.result := by
  cases i with
  | gfMul | xtime | sbox | invSbox | ksNext | unpadLen => simp at h
  | rcon j => exact absurd rfl (hrcon j)
  | _ => rfl

end

/-! ### The next state -/

/-- The outputs do not include the fields that completion writes (46_control.md R291). -/
theorem withOutputsOf_completed (i : Instr) (s u : State) : withOutputsOf i s u.completed = withOutputsOf i s u := by
  cases i <;> rfl

/-- A failure clears OUT_LEN and RESULT whether they are outputs or not (60_exceptions.md R312). -/
theorem failedWith_withOutputsOf (i : Instr) (s u : State) (e e' : BitVec 4) :
    (withOutputsOf i s (u.failedWith e)).failedWith e' = (withOutputsOf i s u).failedWith e' := by
  cases i <;> rfl

/-- No error has the code of success (60_exceptions.md R300). -/
theorem Err.code_ne_zero (e : Err) : e.code ≠ 0 := by
  cases e <;> decide

/-- The next state is `s` with the command's outputs written, and then a success or a failure. -/
theorem EndsWithin.completed_or_failed {i : Instr} {s t : State} {r : Result} (h : EndsWithin i s r) (hr : r = .next t) :
    t = (withOutputsOf i s t).completed ∨ (t.err ≠ 0 ∧ t = (withOutputsOf i s t).failedWith t.err) := by
  cases h with
  | succeed h =>
    have ht : t = State.completed _ := succeed_next.mp hr
    left
    rw [ht, withOutputsOf_completed, h]
  | raise e h =>
    have ht : t = State.failedWith e.code _ := raiseError_next.mp hr
    right
    rw [ht, failedWith_withOutputsOf, h]
    exact ⟨e.code_ne_zero, rfl⟩

/-- The next state differs from `s` in the command's outputs, its completion, and OUT_LEN and RESULT, which a failure clears. -/
theorem exec_frame {i : Instr} {s t : State} (ht : exec i s = .next t) :
    t = { withOutputsOf i s t with
      err := t.err, done := t.done, running := t.running, outLen := t.outLen, result := t.result } := by
  have h := (exec_endsWithin i s).completed_or_failed ht
  generalize withOutputsOf i s t = x at h ⊢
  rcases h with h | ⟨-, h⟩
  · rw [h]
    rfl
  · rw [h]
    rfl

/-- A success writes no OUT_LEN and no RESULT but its outputs. -/
theorem exec_frame_of_success {i : Instr} {s t : State} (ht : exec i s = .next t) (herr : t.err = 0) :
    t = (withOutputsOf i s t).completed :=
  ((exec_endsWithin i s).completed_or_failed ht).resolve_right fun h => h.1 herr

/-! ### OBUF's bytes -/

/-- Every output stays inside OBUF's MAX_MSG + 16 bytes (10_state.md R40). -/
theorem Change.obuf_read {s u : State} (c : Change s u) {a : Nat} (ha : a < obufBase ∨ obufBase + s.maxMsg + 16 ≤ a) :
    u.obuf.read a = s.obuf.read a := by
  cases c with
  | none | result v | block b | newStream hk n c i | newKey ks nr h | noKey => rfl
  | nextByte v => simp
  | output out hfits => exact Memory.read_writeSeq_out _ _ _ _ (by omega)
  | streamOutput n out hfits =>
    rw [State.output_obuf, Memory.read_writeSeq_out _ _ _ _ (by omega), State.advanceBy_obuf]

/-- The same of the command that makes the change. -/
theorem Ends.obuf_read {s t : State} {r : Result} (e : Ends s r) (hr : r = .next t) {a : Nat}
    (ha : a < obufBase ∨ obufBase + s.maxMsg + 16 ≤ a) : t.obuf.read a = s.obuf.read a := by
  cases e with
  | succeed c => rw [succeed_next.mp hr, c.obuf_read ha]
  | raise e c => rw [raiseError_next.mp hr, c.obuf_read ha]

/-! ### The frame -/

/-- Settles O44: a field that is no output of the command is that of `s` in the next state, and outputs stay inside OBUF. -/
theorem commandsWriteOnlyTheirOutputs : Obligations.CommandsWriteOnlyTheirOutputs := by
  intro i s t ht
  have hframe := exec_frame ht
  have hsuccess := exec_frame_of_success ht
  refine ⟨?_, fun hkey => ?_, fun hreset hread hnext => ?_, fun hreset => ?_, fun hlist hadd => ?_,
    fun hlist hpad => ⟨?_, fun herr => ?_⟩, fun hlist hrcon herr => ?_, fun a ha => (exec_ends i s).obuf_read ht ha⟩
  · rw [hframe]
    exact withOutputsOf_inputs i s t
  · rw [hframe]
    exact withOutputsOf_schedule s t hkey
  · rw [hframe]
    exact withOutputsOf_cursor s t hreset hread hnext
  · rw [hframe]
    exact withOutputsOf_ksNonce s t hreset
  · rw [hframe]
    exact withOutputsOf_block s t hlist hadd
  · rw [hframe]
    exact (withOutputsOf_obuf s t hlist hpad).1
  · rw [hsuccess herr]
    exact (withOutputsOf_obuf s t hlist hpad).2
  · rw [hsuccess herr]
    exact withOutputsOf_result s t hlist hrcon

end Sys2Proof.Machine
end

section
/-! The field GF(2^8) and the S-box ROMs (40_gf_sbox.md R130 to R137), and the five commands that read them (R140 to R144): settles
O10, O11, O12, O13 and O14. -/

namespace Sys2Proof.Machine

/-! ### The field product (R131, R132) -/

/-- Doubling, its reduction decided by the byte as a number (R131). -/
theorem xtime_eq_ite (a : Byte) : xtime a = if 128 ≤ a.toNat then (a <<< 1) ^^^ 0x1b else a <<< 1 := by
  have hbit : a.getLsbD 7 = decide (128 ≤ a.toNat) := (BitVec.msb_eq_getLsbD_last a).symm.trans (BitVec.msb_eq_decide a)
  simp only [xtime, hbit, decide_eq_true_eq]

/-- A property of 1 that XOR and doubling keep holds of every byte: each bit's byte is 1 doubled. -/
theorem byte_induct_xtime {P : Byte → Prop} (h1 : P 1) (hx : ∀ a b, P a → P b → P (a ^^^ b)) (hd : ∀ a, P a → P (xtime a))
    (a : Byte) : P a := by
  have hiter (n : Nat) : P (xtime^[n] 1) := by
    induction n with
    | zero => exact h1
    | succ n ih => exact Function.iterate_succ_apply' xtime n 1 ▸ hd _ ih
  have hbit : ∀ i : Fin 8, BitVec.twoPow 8 i = xtime^[i] 1 := by decide
  have hzero : P 0 := by simpa using hx 1 1 h1 h1
  exact byte_induct hzero (fun i => hbit i ▸ hiter i) hx a

/-- R132's loop doubles its result when its accumulator and its operand are doubled. -/
theorem gfMul_fold_xtime (b : Byte) (l : List Nat) (p : Byte × Byte) :
    l.foldl (gfMulStep b) (xtime p.1, xtime p.2)
      = (xtime (l.foldl (gfMulStep b) p).1, xtime (l.foldl (gfMulStep b) p).2) := by
  induction l generalizing p with
  | nil => rfl
  | cons k l ih =>
    have hstep : gfMulStep b (xtime p.1, xtime p.2) k = (xtime (gfMulStep b p k).1, xtime (gfMulStep b p k).2) := by
      unfold gfMulStep
      cases b.getLsbD k <;> simp [xtime_xor]
    rw [List.foldl_cons, hstep, ih, List.foldl_cons]

theorem gfMul_xtime_left (a b : Byte) : gfMul (xtime a) b = xtime (gfMul a b) := by
  have h := gfMul_fold_xtime b (List.range 8) (0, a)
  rw [show xtime 0 = 0 by decide] at h
  exact congrArg Prod.fst h

theorem gfMul_one_left (b : Byte) : gfMul 1 b = b := by
  induction b using byte_induct with
  | h0 => exact gfMul_zero_right 1
  | hb i => decide +revert
  | hx b c hb hc => rw [gfMul_xor_right, hb, hc]

theorem gfMul_one_right (a : Byte) : gfMul a 1 = a := by
  induction a using byte_induct_xtime with
  | h1 => exact gfMul_one_left 1
  | hx a a' ha ha' => rw [gfMul_xor_left, ha, ha']
  | hd a ha => rw [gfMul_xtime_left, ha]

theorem gfMul_xtime_right (a b : Byte) : gfMul a (xtime b) = xtime (gfMul a b) := by
  induction a using byte_induct_xtime with
  | h1 => rw [gfMul_one_left, gfMul_one_left]
  | hx a a' ha ha' => rw [gfMul_xor_left, gfMul_xor_left, xtime_xor, ha, ha']
  | hd a ha => rw [gfMul_xtime_left, gfMul_xtime_left, ha]

theorem gfMul_comm (a b : Byte) : gfMul a b = gfMul b a := by
  induction b using byte_induct_xtime with
  | h1 => rw [gfMul_one_right, gfMul_one_left]
  | hx b c hb hc => rw [gfMul_xor_right, gfMul_xor_left, hb, hc]
  | hd b hb => rw [gfMul_xtime_right, gfMul_xtime_left, hb]

theorem gfMul_assoc (a b c : Byte) : gfMul (gfMul a b) c = gfMul a (gfMul b c) := by
  induction c using byte_induct_xtime with
  | h1 => rw [gfMul_one_right, gfMul_one_right]
  | hx c d hc hd => rw [gfMul_xor_right, gfMul_xor_right b, gfMul_xor_right a, hc, hd]
  | hd c hc => rw [gfMul_xtime_right, gfMul_xtime_right b, gfMul_xtime_right a, hc]

theorem gfMul_two_right (a : Byte) : gfMul a 0x02 = xtime a := by
  rw [show (0x02 : Byte) = xtime 1 by decide, gfMul_xtime_right, gfMul_one_right]

theorem gfMul_three_right (a : Byte) : gfMul a 0x03 = xtime a ^^^ a := by
  rw [show (0x03 : Byte) = 0x02 ^^^ 1 by decide, gfMul_xor_right, gfMul_two_right, gfMul_one_right]

/-- Settles O13: each law is an induction on one factor, from 1 by XOR and doubling. -/
theorem fieldProductLaws : Obligations.FieldProductLaws := fun a b c =>
  ⟨xtime_eq_ite a, gfMul_comm a b, gfMul_xor_right a b c, gfMul_xtime_right a b, gfMul_one_right a, gfMul_zero_right a,
    gfMul_two_right a, gfMul_three_right a⟩

/-! ### The S-box ROMs (R133 to R136) -/

/-- A byte has at most one inverse. -/
theorem gfMul_inverse_unique {a b c : Byte} (hb : gfMul a b = 1) (hc : gfMul a c = 1) : b = c :=
  calc b = gfMul b (gfMul a c) := by rw [hc, gfMul_one_right]
    _ = gfMul (gfMul a b) c := by rw [← gfMul_assoc, gfMul_comm b a]
    _ = c := by rw [hb, gfMul_one_left]

/-- The affine map of the S-box (R133). -/
def sboxAffine (b : Byte) : Byte := b ^^^ b.rotateLeft 1 ^^^ b.rotateLeft 2 ^^^ b.rotateLeft 3 ^^^ b.rotateLeft 4 ^^^ 0x63

/-- The byte that `sboxAffine` takes to `c`. -/
def sboxAffineInv (c : Byte) : Byte := c.rotateLeft 1 ^^^ c.rotateLeft 3 ^^^ c.rotateLeft 6 ^^^ 0x05

theorem sboxAffine_sboxAffineInv : ∀ c : Byte, sboxAffine (sboxAffineInv c) = c := by decide

/-- The table's entry at `a` is the affine image of an inverse of `a`. -/
theorem gfMul_sboxAffineInv_sbox : ∀ a : Byte, a ≠ 0 → gfMul a (sboxAffineInv (sbox a)) = 1 := by decide

/-- An S-box entry by its definition (R133). -/
theorem sbox_eq_sboxAffine {a b : Byte} (h : gfMul a b = 1 ∨ (a = 0 ∧ b = 0)) : sbox a = sboxAffine b := by
  rcases h with h | ⟨rfl, rfl⟩
  · have ha : a ≠ 0 := by
      rintro rfl
      rw [gfMul_zero_left] at h
      exact absurd h (by decide)
    rw [gfMul_inverse_unique h (gfMul_sboxAffineInv_sbox a ha), sboxAffine_sboxAffineInv]
  · decide

theorem sbox_ne_self : ∀ b : Byte, sbox b ≠ b := by decide

@[simp] theorem invSbox_sbox : ∀ b : Byte, invSbox (sbox b) = b := by decide

@[simp] theorem sbox_invSbox : ∀ b : Byte, sbox (invSbox b) = b := by decide

/-- Settles O14. -/
theorem sboxIsAffineOfFieldInverse : Obligations.SboxIsAffineOfFieldInverse :=
  ⟨fun _ _ => sbox_eq_sboxAffine, fun b => ⟨sbox_ne_self b, invSbox_sbox b, sbox_invSbox b⟩⟩

/-! ### The commands' words (30_encoding.md R102, R105) -/

/-- A word whose RSVD or ARG8 R106 refuses completes with IllegalCommand. -/
theorem execute_illegal {w : Word} (s : State)
    (h : rsvdField w ≠ 0 ∨ argLegal (opcodeField w).toNat (argField w) = false) : execute w s = .next (s.failedWith 7) := by
  obtain ⟨e, he⟩ := (decode_error_iff w).mpr (h.imp_right .inr)
  exact execute_error s he

/-- The words of a command that takes no ARG8. -/
theorem plainEncoding_opcode {i : Instr} (harg : i.arg8 = 0) (hlegal : ∀ arg, argLegal i.opcode.toNat arg = (arg == 0)) :
    PlainEncoding i.opcode i := by
  have hword : encode i = i.opcode.setWidth 32 := by simp [encode, harg]
  have hwf : i.wellFormed = true := by rw [← argLegal_opcode, harg, hlegal, beq_self_eq_true]
  refine ⟨hword ▸ decodeOfEncodeGivesTheCommand i hwf, fun w s hopc hw => execute_illegal s ?_⟩
  by_contra! hok
  obtain ⟨hrsvd, hgood⟩ := hok
  have hzero : argField w = 0 := by simpa [hopc, hlegal] using hgood
  have hfields := word_of_fields w hrsvd
  rw [hopc, hzero] at hfields
  exact hw (by simpa using hfields.symm)

/-- A success after RESULT is written. -/
theorem succeed_setResult (s : State) (v : Word) : succeed (s.setResult v) = .next { s.completed with result := v } := rfl

/-- Settles O10. -/
theorem fieldCommandsWriteResult : Obligations.FieldCommandsWriteResult :=
  ⟨plainEncoding_opcode (i := .gfMul) rfl fun _ => rfl, plainEncoding_opcode (i := .xtime) rfl fun _ => rfl,
    fun s => ⟨succeed_setResult s _, succeed_setResult s _⟩⟩

/-- Settles O11. -/
theorem sboxCommandsWriteResult : Obligations.SboxCommandsWriteResult :=
  ⟨plainEncoding_opcode (i := .sbox) rfl fun _ => rfl, plainEncoding_opcode (i := .invSbox) rfl fun _ => rfl,
    fun s => ⟨succeed_setResult s _, succeed_setResult s _⟩⟩

/-! ### The round constants (R137, R144) -/

/-- The ROM's doubling sequence (R137). -/
theorem rcon_succ {n : Nat} (hlow : 1 ≤ n) (htop : n ≤ 9) : rcon (n + 1) = xtime (rcon n) := by
  interval_cases n <;> decide

theorem rcon_eq_iterate_xtime {n : Nat} (hlow : 1 ≤ n) (htop : n ≤ 10) : rcon n = xtime^[n - 1] 1 := by
  induction n, hlow using Nat.le_induction with
  | base => rfl
  | succ n hlow ih =>
    rw [rcon_succ hlow (by omega), ih (by omega), ← Function.iterate_succ_apply' xtime]
    congr 1
    omega

/-- RCON at a legal index (R144). -/
theorem execRcon_of_legal {j : Byte} (s : State) (hlow : 1 ≤ j.toNat) (htop : j.toNat ≤ 10) :
    execRcon j s = .next { s.completed with result := (xtime^[j.toNat - 1] 0x01).setWidth 32 } := by
  rw [execRcon, argNat, if_neg (by omega), rcon_eq_iterate_xtime hlow htop]
  exact succeed_setResult s _

/-- Settles O12: a legal index passes R106's checks and reads the ROM, and every other word of OPCODE 0x24 fails a check. -/
theorem rconCommandWritesRoundConstant : Obligations.RconCommandWritesRoundConstant := by
  refine ⟨fun s j hlow htop => ⟨?_, execRcon_of_legal s hlow htop⟩, fun s w hopc hbad => execute_illegal s ?_⟩
  · exact decodeOfEncodeGivesTheCommand (.rcon j) (by simp [Instr.wellFormed, hlow, htop])
  · rw [argLegal_eq_false_iff, hopc]
    rcases hbad with hzero | hbig | hrsvd
    · exact .inr (.inr (.inl ⟨rfl, .inl hzero⟩))
    · exact .inr (.inr (.inl ⟨rfl, .inr hbig⟩))
    · exact .inl hrsvd

end Sys2Proof.Machine
end

section
/-! The key schedule (41_key_schedule.md R160 to R164) and MAKE_KEY (R165): settles O15, O16 and O17. -/

namespace Sys2Proof.Machine

/-! ### Words of bytes (R161 to R163) -/

/-- The word of four key bytes, its terms in R161's order. -/
theorem wordBE_eq_or (b0 b1 b2 b3 : Byte) :
    wordBE b0 b1 b2 b3
      = b0.setWidth 32 <<< 24 ||| b1.setWidth 32 <<< 16 ||| b2.setWidth 32 <<< 8 ||| b3.setWidth 32 := by
  have hreverse (x y z t : Word) : t ||| z ||| y ||| x = x ||| y ||| z ||| t := by ac_rfl
  exact hreverse _ _ _ _

theorem keyByte_of_lt (key : Vector Byte 32) {i : Nat} (h : i < 32) : keyByte key i = key[i] := by
  simp [keyByte, h]

theorem keyWord_of_lt (key : Vector Byte 32) {i : Nat} (h : 4 * i + 3 < 32) :
    keyWord key i
      = key[4 * i].setWidth 32 <<< 24 ||| key[4 * i + 1].setWidth 32 <<< 16 ||| key[4 * i + 2].setWidth 32 <<< 8
        ||| key[4 * i + 3].setWidth 32 := by
  rw [keyWord, wordBE_eq_or, keyByte_of_lt key, keyByte_of_lt key, keyByte_of_lt key, keyByte_of_lt key]

/-- SubWord acts on each byte; `j` counts them from the least significant, R163 from the most. -/
theorem subWord_extractLsb' (x : Word) (j : Fin 4) :
    (subWord x).extractLsb' (8 * j.val) 8 = sbox (x.extractLsb' (8 * j.val) 8) := by
  obtain ⟨h0, h1, h2, h3⟩ :=
    byteBE_wordBE (sbox (byteBE x 0)) (sbox (byteBE x 1)) (sbox (byteBE x 2)) (sbox (byteBE x 3))
  match j with
  | 0 => exact h3
  | 1 => exact h2
  | 2 => exact h1
  | 3 => exact h0

/-! ### The expansion (R164) -/

theorem expand_length_eq (nk : Nat) (key : Vector Byte 32) : (expand nk key).length = 4 * (nk + 6 + 1) := by
  rw [expand_length]
  omega

/-- The expansion begins with the key's words. -/
theorem expand_getD_key {nk i : Nat} (key : Vector Byte 32) (h : i < nk) : (expand nk key).getD i 0 = keyWord key i := by
  rw [expand, expandLoop_getD_old _ _ _ _ (by simpa using h)]
  simp [h]

/-- Each later word follows from the word before it and the one `nk` before it. -/
theorem expand_getD_later {nk i : Nat} (key : Vector Byte 32) (hpos : 0 < nk) (hlow : nk ≤ i) (htop : i < 4 * (nk + 6 + 1)) :
    (expand nk key).getD i 0
      = (expand nk key).getD (i - nk) 0 ^^^ expandTemp nk i ((expand nk key).getD (i - 1) 0) := by
  have hlen : ((List.range nk).map (keyWord key)).length = nk := by simp
  exact expandLoop_getD_new nk _ _ i hpos hlen.ge (by omega) (by omega)

/-- `expandTemp` with RotWord as a rotation and the round constant written out (R162, R164). -/
theorem expandTemp_eq (nk i : Nat) (temp : Word) :
    expandTemp nk i temp
      = if i % nk = 0 then subWord (temp.rotateLeft 8) ^^^ ((rcon (i / nk)).setWidth 32 <<< 24)
        else if 6 < nk ∧ i % nk = 4 then subWord temp else temp :=
  rfl

/-- Settles O15: the expansion starts from the key's words, and every word it appends is a step of the recurrence. -/
theorem keyExpansionRecurrence : Obligations.KeyExpansionRecurrence := by
  refine ⟨subWord_extractLsb', fun nk key hnk => ⟨expand_length_eq nk key, fun i hi hk => ?_, fun i hlow htop => ?_⟩⟩
  · exact (expand_getD_key key hi).trans (keyWord_of_lt key hk)
  · have hpos : 0 < nk := by omega
    rw [← expandTemp_eq]
    exact expand_getD_later key hpos hlow htop

/-! ### MAKE_KEY (R165) -/

/-- MAKE_KEY of a key of legal length. -/
theorem exec_makeKey_of_legal {s : State} (h : keyLengthLegal s.keyLen = true) :
    exec .makeKey s = .next { s.completed with
      ksValid := false, keyValid := true, nr := BitVec.ofNat 4 (s.keyLen.toNat / 4 + 6)
      ks := storeSchedule (expand (s.keyLen.toNat / 4) s.key) s.ks } :=
  if_pos h

/-- MAKE_KEY of a key of any other length (60_exceptions.md R301). -/
theorem exec_makeKey_of_not_legal {s : State} (h : ¬ keyLengthLegal s.keyLen = true) :
    exec .makeKey s = .next { s.failedWith 1 with ksValid := false, keyValid := false, nr := 0 } :=
  if_neg h

/-- Storing a schedule replaces as many words of KS as it has. -/
theorem storeSchedule_eq (w : List Word) (ks : Vector Word 60) :
    storeSchedule w ks = Vector.ofFn fun i => if i.val < w.length then w.getD i.val 0 else ks[i] := by
  refine congrArg Vector.ofFn (funext fun i => ?_)
  split
  case isTrue h => simp [h]
  case isFalse h => rw [List.getElem?_eq_none (Nat.le_of_not_lt h), Option.getD_none]

/-- Settles O16: the two outcomes are the two sides of the length check. -/
theorem makeKeyExpandsOrRejectsTheKey : Obligations.MakeKeyExpandsOrRejectsTheKey := by
  refine ⟨plainEncoding_opcode (i := .makeKey) rfl fun _ => rfl, fun s => ⟨fun hbad => ?_, fun hgood => ?_⟩⟩
  · refine exec_makeKey_of_not_legal fun hlegal => ?_
    have hlen := (keyLengthLegal_iff s.keyLen).mp hlegal
    omega
  · rw [exec_makeKey_of_legal ((keyLengthLegal_iff s.keyLen).mpr hgood), storeSchedule_eq, expand_length_eq]

/-- The expansion reads the first `nk` words of the key only. -/
theorem expand_congr {nk : Nat} {k key : Vector Byte 32} (h : ∀ i : Fin 32, i.val < 4 * nk → k[i] = key[i]) :
    expand nk k = expand nk key := by
  have hbyte {i : Nat} (hi : i < 4 * nk) : keyByte k i = keyByte key i := by
    by_cases h32 : i < 32
    · rw [keyByte_of_lt k h32, keyByte_of_lt key h32]
      exact h ⟨i, h32⟩ hi
    · simp [keyByte, h32]
  have hword : ∀ i ∈ List.range nk, keyWord k i = keyWord key i := fun i hi => by
    have hi : i < nk := List.mem_range.mp hi
    rw [keyWord, keyWord, hbyte (by omega), hbyte (by omega), hbyte (by omega), hbyte (by omega)]
  rw [expand, expand, List.map_congr_left hword]

/-- Settles O17: the length check reads KEY_LEN alone, and the expansion no byte at or beyond it. -/
theorem makeKeyReadsOnlyKeyLenBytes : Obligations.MakeKeyReadsOnlyKeyLenBytes := by
  intro s t k hk ht
  by_cases hlegal : keyLengthLegal s.keyLen = true
  · have hschedule : expand (s.keyLen.toNat / 4) k = expand (s.keyLen.toNat / 4) s.key :=
      expand_congr fun i hi => hk i (by omega)
    rw [exec_makeKey_of_legal hlegal, ← hschedule] at ht
    cases ht
    exact exec_makeKey_of_legal (s := { s with key := k }) hlegal
  · rw [exec_makeKey_of_not_legal hlegal] at ht
    cases ht
    exact exec_makeKey_of_not_legal (s := { s with key := k }) hlegal

end Sys2Proof.Machine
end

section
/-! The round transforms (42_round_transforms.md R181 to R188) and the seven commands on STATE (R190 to R196): settles O18, O19, O20,
O21 and O22. -/

namespace Sys2Proof.Machine

/-- A success after STATE is written. -/
theorem succeed_setBlock (s : State) (b : Block) : succeed (s.setBlock b) = .next { s.completed with block := b } := rfl

/-! ### MixColumns by columns (R185, R186) -/

/-- A byte of a block as a byte of its column (10_state.md R38). -/
theorem block_getElem_eq_column (s : Block) (c r : Fin 4) : s[4 * c.val + r.val] = (column s c)[r.val] := by
  rw [column_getElem]
  simp only [Nat.add_comm]

theorem column_mixColumns (s : Block) (c : Fin 4) : column (mixColumns s) c = mixColumn (column s c) := column_ofColumns _ c

theorem column_invMixColumns (s : Block) (c : Fin 4) : column (invMixColumns s) c = invMixColumn (column s c) :=
  column_ofColumns _ c

/-- The row `p q r t` of a matrix times MixColumns of a column is the row's product with R185's matrix, `p' q' r' t'`,
times the column. -/
theorem row_mul_mixColumn (p q r t p' q' r' t' : Byte) (a : Vector Byte 4)
    (h : gfMul p 0x02 ^^^ q ^^^ r ^^^ gfMul t 0x03 = p' ∧ gfMul p 0x03 ^^^ gfMul q 0x02 ^^^ r ^^^ t = q'
      ∧ p ^^^ gfMul q 0x03 ^^^ gfMul r 0x02 ^^^ t = r' ∧ p ^^^ q ^^^ gfMul r 0x03 ^^^ gfMul t 0x02 = t') :
    gfMul p (mixColumn a)[0] ^^^ gfMul q (mixColumn a)[1] ^^^ gfMul r (mixColumn a)[2] ^^^ gfMul t (mixColumn a)[3]
      = gfMul p' a[0] ^^^ gfMul q' a[1] ^^^ gfMul r' a[2] ^^^ gfMul t' a[3] := by
  obtain ⟨rfl, rfl, rfl, rfl⟩ := h
  simp only [mixColumn, Vector.getElem_mk, List.getElem_toArray, List.getElem_cons_zero, List.getElem_cons_succ,
    gfMul_xor_right, gfMul_xor_left, gfMul_assoc]
  ac_rfl

/-- R186's matrix times R185's is the identity, row by row. -/
theorem invMixColumn_mixColumn (a : Vector Byte 4) : invMixColumn (mixColumn a) = a := by
  have h0 := row_mul_mixColumn 0x0e 0x0b 0x0d 0x09 1 0 0 0 a (by decide)
  have h1 := row_mul_mixColumn 0x09 0x0e 0x0b 0x0d 0 1 0 0 a (by decide)
  have h2 := row_mul_mixColumn 0x0d 0x09 0x0e 0x0b 0 0 1 0 a (by decide)
  have h3 := row_mul_mixColumn 0x0b 0x0d 0x09 0x0e 0 0 0 1 a (by decide)
  simp only [gfMul_one_left, gfMul_zero_left] at h0 h1 h2 h3
  refine Vector.ext fun i hi => ?_
  interval_cases i
  · exact h0.trans (by simp)
  · exact h1.trans (by simp)
  · exact h2.trans (by simp)
  · exact h3.trans (by simp)

theorem invMixColumns_mixColumns (s : Block) : invMixColumns (mixColumns s) = s := by
  simp only [invMixColumns, column_mixColumns, invMixColumn_mixColumn]
  exact ofColumns_column s

/-! ### The other transforms (R181 to R184, R188) -/

theorem invSubBytes_subBytes (s : Block) : invSubBytes (subBytes s) = s := by
  refine Vector.ext fun i hi => ?_
  rw [invSubBytes_getElem, subBytes_getElem, invSbox_sbox]

theorem subBytes_shiftRows (s : Block) : subBytes (shiftRows s) = shiftRows (subBytes s) := by
  refine Vector.ext fun i hi => ?_
  rw [subBytes_getElem, shiftRows_getElem, shiftRows_getElem, subBytes_getElem]

/-- ShiftRows at row `r`, column `c`. -/
theorem shiftRows_at (s : Block) (r c : Fin 4) :
    (shiftRows s)[r.val + 4 * c.val] = s[r.val + 4 * ((c.val + r.val) % 4)] := by
  rw [shiftRows_getElem]
  exact getElem_congr_idx (by omega)

/-- InvShiftRows brings a byte of row `r` back from where it goes right by `r`. -/
theorem invShiftRows_at (s : Block) (r c : Fin 4) :
    (invShiftRows s)[r.val + 4 * ((c.val + r.val) % 4)] = s[r.val + 4 * c.val] := by
  rw [invShiftRows_getElem]
  exact getElem_congr_idx (by omega)

theorem invShiftRows_shiftRows (s : Block) : invShiftRows (shiftRows s) = s := by
  refine Vector.ext fun i hi => ?_
  rw [invShiftRows_getElem, shiftRows_getElem]
  exact getElem_congr_idx (by omega)

/-- Settles O22: the bytes, the rows and the columns each go back, and XOR with a round key undoes itself. -/
theorem roundTransformsInvert : Obligations.RoundTransformsInvert := fun s ks r =>
  ⟨invSubBytes_subBytes s, invShiftRows_shiftRows s, invMixColumns_mixColumns s, addRoundKey_addRoundKey ks r s,
    subBytes_shiftRows s⟩

/-! ### The commands without a key (R190 to R195) -/

/-- Settles O20: column `c` of the result is R185's or R186's matrix times column `c` of STATE. -/
theorem mixColumnsCommandsMultiplyColumns : Obligations.MixColumnsCommandsMultiplyColumns := by
  refine ⟨plainEncoding_opcode (i := .mixColumns) rfl fun _ => rfl, plainEncoding_opcode (i := .invMixColumns) rfl fun _ => rfl,
    fun s => ⟨⟨_, succeed_setBlock s _, fun c => ?_⟩, ⟨_, succeed_setBlock s _, fun c => ?_⟩⟩⟩
  · simp only [block_getElem_eq_column, column_mixColumns]
    exact ⟨rfl, rfl, rfl, rfl⟩
  · simp only [block_getElem_eq_column, column_invMixColumns]
    exact ⟨rfl, rfl, rfl, rfl⟩

/-- Settles O18. -/
theorem subBytesCommandsSubstituteEveryByte : Obligations.SubBytesCommandsSubstituteEveryByte :=
  ⟨plainEncoding_opcode (i := .subBytes) rfl fun _ => rfl, plainEncoding_opcode (i := .invSubBytes) rfl fun _ => rfl,
    fun s => ⟨⟨_, succeed_setBlock s _, fun i => subBytes_getElem s.block i i.isLt⟩,
      ⟨_, succeed_setBlock s _, fun i => invSubBytes_getElem s.block i i.isLt⟩⟩⟩

/-- Settles O19. -/
theorem shiftRowsCommandsRotateRows : Obligations.ShiftRowsCommandsRotateRows :=
  ⟨plainEncoding_opcode (i := .shiftRows) rfl fun _ => rfl, plainEncoding_opcode (i := .invShiftRows) rfl fun _ => rfl,
    fun s => ⟨⟨_, succeed_setBlock s _, shiftRows_at s.block⟩, ⟨_, succeed_setBlock s _, invShiftRows_at s.block⟩⟩⟩

/-! ### ADD_ROUND_KEY (R187, R196) -/

/-- AddRoundKey at row `j`, column `c`, for a round whose words KS holds. -/
theorem addRoundKey_at (ks : Vector Word 60) (r : Nat) (s : Block) (j c : Fin 4) (h : 4 * r + c.val < 60) :
    (addRoundKey ks r s)[j.val + 4 * c.val]
      = s[j.val + 4 * c.val] ^^^ (ks[4 * r + c.val]).extractLsb' (24 - 8 * j.val) 8 := by
  have hcol : (j.val + 4 * c.val) / 4 = c.val := by omega
  have hrow : (j.val + 4 * c.val) % 4 = j.val := by omega
  rw [addRoundKey_getElem, hcol, hrow, ksWord_of_lt ks h, byteBE]

/-- ADD_ROUND_KEY without a key (60_exceptions.md R305). -/
theorem execAddRoundKey_of_noKey {r : Byte} {s : State} (hkey : s.keyValid = false) :
    execAddRoundKey r s = raiseError .noKey s := by
  rw [execAddRoundKey, if_pos (by simp [hkey])]

/-- ADD_ROUND_KEY of a round of the schedule. -/
theorem execAddRoundKey_of_le_nr {r : Byte} {s : State} (hkey : s.keyValid = true) (hround : r.toNat ≤ s.nr.toNat) :
    execAddRoundKey r s = .next { s.completed with block := addRoundKey s.ks r.toNat s.block } := by
  rw [execAddRoundKey, if_neg (by simp [hkey]), argNat, if_neg (Nat.not_lt.mpr hround)]
  exact succeed_setBlock s _

/-- Settles O21: decoding takes every ARG8 and no RSVD but 0; then the key and the round are checked, in this order. -/
theorem addRoundKeyXorsRoundKey : Obligations.AddRoundKeyXorsRoundKey :=
  ⟨fun _ s _ hrsvd => execute_illegal s (.inl hrsvd), fun r s =>
    ⟨decodeOfEncodeGivesTheCommand (.addRoundKey r) rfl, execAddRoundKey_of_noKey, execAddRoundKey_of_nr_lt,
      fun hkey _ hround => ⟨_, execAddRoundKey_of_le_nr hkey hround, addRoundKey_at s.ks r.toNat s.block⟩⟩⟩

end Sys2Proof.Machine
end

section
/-! Cipher and InvCipher (43_cipher.md R210 to R213) and their two commands (R214, R215): settles O23, O24 and O25. -/

namespace Sys2Proof.Machine

/-! ### The blocks between the rounds (R210, R212) -/

/-- The block after AddRoundKey 0 and the middle rounds `1 .. r` of Cipher (R210). -/
def blockAfterRound (ks : Vector Word 60) (b : Block) (r : Nat) : Block :=
  (List.range' 1 r).foldl (cipherRound ks) (addRoundKey ks 0 b)

/-- The block after AddRoundKey `nr` and the middle rounds `nr - 1` down to `r` of InvCipher (R212). -/
def blockDownToRound (ks : Vector Word 60) (nr : Nat) (b : Block) (r : Nat) : Block :=
  (List.range' r (nr - r)).reverse.foldl (invCipherRound ks) (addRoundKey ks nr b)

/-- The final round of Cipher has no MixColumns. -/
theorem cipher_eq_final_round (ks : Vector Word 60) (nr : Nat) (b : Block) :
    cipher ks nr b = addRoundKey ks nr (shiftRows (subBytes (blockAfterRound ks b (nr - 1)))) := rfl

/-- The final round of InvCipher has no InvMixColumns. -/
theorem invCipher_eq_final_round (ks : Vector Word 60) (nr : Nat) (b : Block) :
    invCipher ks nr b = addRoundKey ks 0 (invSubBytes (invShiftRows (blockDownToRound ks nr b 1))) := rfl

theorem blockAfterRound_zero (ks : Vector Word 60) (b : Block) : blockAfterRound ks b 0 = addRoundKey ks 0 b := rfl

theorem blockAfterRound_of_pos (ks : Vector Word 60) (b : Block) {r : Nat} (hr : 1 ≤ r) :
    blockAfterRound ks b r = cipherRound ks (blockAfterRound ks b (r - 1)) r := by
  obtain ⟨k, rfl⟩ := Nat.exists_eq_add_of_le' hr
  rw [blockAfterRound, List.range'_1_concat, List.foldl_append, Nat.add_comm 1 k]
  rfl

theorem blockDownToRound_self (ks : Vector Word 60) (nr : Nat) (b : Block) :
    blockDownToRound ks nr b nr = addRoundKey ks nr b := by
  rw [blockDownToRound, Nat.sub_self]
  rfl

theorem blockDownToRound_of_lt (ks : Vector Word 60) {nr : Nat} (b : Block) {r : Nat} (hr : r < nr) :
    blockDownToRound ks nr b r = invCipherRound ks (blockDownToRound ks nr b (r + 1)) r := by
  have hcount : nr - r = (nr - (r + 1)) + 1 := by omega
  rw [blockDownToRound, hcount, List.range'_succ, List.reverse_cons, List.foldl_append]
  rfl

/-! ### The commands (R214, R215) -/

theorem exec_cipher_of_noKey {s : State} (hkey : s.keyValid = false) : exec .cipher s = raiseError .noKey s :=
  if_pos (by simp [hkey])

theorem exec_invCipher_of_noKey {s : State} (hkey : s.keyValid = false) : exec .invCipher s = raiseError .noKey s :=
  if_pos (by simp [hkey])

theorem exec_cipher_of_key {s : State} (hkey : s.keyValid = true) :
    exec .cipher s = .next { s.completed with block := cipher s.ks s.nr.toNat s.block } :=
  (if_neg (by simp [hkey])).trans (succeed_setBlock s _)

theorem exec_invCipher_of_key {s : State} (hkey : s.keyValid = true) :
    exec .invCipher s = .next { s.completed with block := invCipher s.ks s.nr.toNat s.block } :=
  (if_neg (by simp [hkey])).trans (succeed_setBlock s _)

/-- Settles O23: the blocks between the rounds are the sequences. -/
theorem cipherCommandsRunTheRounds : Obligations.CipherCommandsRunTheRounds := by
  refine ⟨plainEncoding_opcode (i := .cipher) rfl fun _ => rfl, plainEncoding_opcode (i := .invCipher) rfl fun _ => rfl,
    fun s => ⟨fun hkey => ⟨exec_cipher_of_noKey hkey, exec_invCipher_of_noKey hkey⟩, fun hkey _ => ⟨?_, ?_⟩⟩⟩
  · exact ⟨blockAfterRound s.ks s.block, blockAfterRound_zero _ _, fun r hr _ => blockAfterRound_of_pos _ _ hr,
      cipher_eq_final_round _ _ _ ▸ exec_cipher_of_key hkey⟩
  · exact ⟨blockDownToRound s.ks s.nr.toNat s.block, blockDownToRound_self _ _ _,
      fun r _ hr => blockDownToRound_of_lt _ _ hr, invCipher_eq_final_round _ _ _ ▸ exec_invCipher_of_key hkey⟩

/-! ### InvCipher undoes Cipher (R213) -/

theorem invSubBytes_invShiftRows_shiftRows_subBytes (s : Block) :
    invSubBytes (invShiftRows (shiftRows (subBytes s))) = s := by
  rw [invShiftRows_shiftRows, invSubBytes_subBytes]

/-- A middle round of InvCipher undoes one of Cipher between the SubBytes and ShiftRows of two rounds: the rounds of the two
ciphers are cut at different places. -/
theorem invCipherRound_cipherRound (ks : Vector Word 60) (s : Block) (r : Nat) :
    invCipherRound ks (shiftRows (subBytes (cipherRound ks s r))) r = shiftRows (subBytes s) := by
  rw [invCipherRound, invSubBytes_invShiftRows_shiftRows_subBytes, cipherRound, addRoundKey_addRoundKey,
    invMixColumns_mixColumns]

/-- The middle rounds of InvCipher, in reverse order, undo those of Cipher. -/
theorem foldl_invCipherRound_foldl_cipherRound (ks : Vector Word 60) (rounds : List Nat) (s : Block) :
    rounds.reverse.foldl (invCipherRound ks) (shiftRows (subBytes (rounds.foldl (cipherRound ks) s)))
      = shiftRows (subBytes s) := by
  induction rounds generalizing s with
  | nil => rfl
  | cons r rounds ih =>
    rw [List.reverse_cons, List.foldl_append]
    exact (congrArg (invCipherRound ks · r) (ih _)).trans (invCipherRound_cipherRound ks s r)

theorem invCipher_cipher (ks : Vector Word 60) (nr : Nat) (b : Block) : invCipher ks nr (cipher ks nr b) = b := by
  rw [invCipher, cipher, addRoundKey_addRoundKey, foldl_invCipherRound_foldl_cipherRound,
    invSubBytes_invShiftRows_shiftRows_subBytes, addRoundKey_addRoundKey]

theorem finite_block : Finite Block := by
  have hbyte : Finite Byte := Finite.of_injective BitVec.toFin fun _ _ => BitVec.eq_of_toFin_eq
  refine Finite.of_injective (fun (b : Block) (i : Fin 16) => b[i]) fun b c h => Vector.ext fun i hi => ?_
  exact congrFun h ⟨i, hi⟩

/-- Cipher has InvCipher as a left inverse, so it permutes the finitely many blocks, and a left inverse of a permutation is a
right inverse. -/
theorem cipher_invCipher (ks : Vector Word 60) (nr : Nat) (b : Block) : cipher ks nr (invCipher ks nr b) = b := by
  have hleft : Function.LeftInverse (invCipher ks nr) (cipher ks nr) := invCipher_cipher ks nr
  have := finite_block
  have hsurj : Function.Surjective (cipher ks nr) := Finite.surjective_of_injective hleft.injective
  exact hleft.rightInverse_of_surjective hsurj b

/-- Settles O24: CIPHER keeps the key schedule and NR, so INV_CIPHER undoes it with the same ones. -/
theorem invCipherUndoesCipher : Obligations.InvCipherUndoesCipher := by
  refine ⟨fun ks nr b => ⟨invCipher_cipher ks nr b, cipher_invCipher ks nr b⟩,
    fun s hkey => ⟨_, exec_cipher_of_key hkey, ?_⟩⟩
  have hback := exec_invCipher_of_key (s := { s.completed with block := cipher s.ks s.nr.toNat s.block }) hkey
  exact hback.trans (congrArg (fun b => succeed (s.setBlock b)) (invCipher_cipher s.ks s.nr.toNat s.block))

/-! ### What Cipher and InvCipher read of the schedule (R211) -/

theorem mem_middleRounds_le {nr r : Nat} (h : r ∈ middleRounds nr) : r ≤ nr := by
  rw [middleRounds, List.mem_range'_1] at h
  omega

/-- AddRoundKey of round `r` reads the words `4r .. 4r+3` only (R187). -/
theorem addRoundKey_congr {ks ks' : Vector Word 60} {r : Nat}
    (h : ∀ c < 4, ksWord ks (4 * r + c) = ksWord ks' (4 * r + c)) : addRoundKey ks r = addRoundKey ks' r := by
  refine funext fun s => Vector.ext fun i hi => ?_
  rw [addRoundKey_getElem, addRoundKey_getElem, h (i / 4) (by omega)]

section
variable {ks ks' : Vector Word 60} {nr : Nat} (h : ∀ r ≤ nr, addRoundKey ks r = addRoundKey ks' r)
include h

theorem cipher_congr (b : Block) : cipher ks nr b = cipher ks' nr b := by
  have hround : ∀ s, ∀ r ∈ middleRounds nr, cipherRound ks s r = cipherRound ks' s r := fun s r hr => by
    rw [cipherRound, cipherRound, h r (mem_middleRounds_le hr)]
  rw [cipher, cipher, h nr le_rfl, h 0 (Nat.zero_le nr), List.foldl_ext _ _ _ hround]

theorem invCipher_congr (b : Block) : invCipher ks nr b = invCipher ks' nr b := by
  have hround : ∀ s, ∀ r ∈ (middleRounds nr).reverse, invCipherRound ks s r = invCipherRound ks' s r := fun s r hr => by
    rw [invCipherRound, invCipherRound, h r (mem_middleRounds_le (List.mem_reverse.mp hr))]
  rw [invCipher, invCipher, h nr le_rfl, h 0 (Nat.zero_le nr), List.foldl_ext _ _ _ hround]

end

/-- Settles O25: the two ciphers read the schedule by AddRoundKey of the rounds `0 .. nr` alone. -/
theorem cipherReadsOnlyItsSchedule : Obligations.CipherReadsOnlyItsSchedule := by
  intro ks ks' nr b hnr hagree
  have hkeys : ∀ r ≤ nr, addRoundKey ks r = addRoundKey ks' r := fun r hr => addRoundKey_congr fun c hc => by
    have hlt : 4 * r + c < 60 := by omega
    rw [ksWord_of_lt ks hlt, ksWord_of_lt ks' hlt]
    exact hagree ⟨4 * r + c, hlt⟩ (show 4 * r + c < 4 * (nr + 1) by omega)
  exact ⟨cipher_congr hkeys b, invCipher_congr hkeys b⟩

end Sys2Proof.Machine
end

section
/-! The PKCS7 padder (44_padding.md R230 to R233) and PAD and UNPAD_LEN (R234, R235): settles O26, O27 and O28. -/

namespace Sys2Proof.Machine

/-! ### The pad count and the padded message (R230) -/

theorem padCount_pos (len : Nat) {bs : Nat} (hbs : 1 ≤ bs) : 0 < padCount len bs := Nat.sub_pos_of_lt (Nat.mod_lt len hbs)

theorem padCount_le (len bs : Nat) : padCount len bs ≤ bs := Nat.sub_le _ _

theorem add_padCount_mod (len : Nat) {bs : Nat} (hbs : 1 ≤ bs) : (len + padCount len bs) % bs = 0 := by
  have hlt : len % bs < bs := Nat.mod_lt len hbs
  have hblocks : len + padCount len bs = bs * (len / bs + 1) := by
    have := Nat.div_add_mod len bs
    rw [padCount, Nat.mul_succ]
    omega
  rw [hblocks, Nat.mul_mod_right]

theorem pad_getElem (data : List Byte) (bs : Nat) {k : Nat} (h : k < (pad data bs).length) :
    (pad data bs)[k] = if hk : k < data.length then data[k] else BitVec.ofNat 8 (padCount data.length bs) := by
  simp only [pad, List.getElem_append, List.getElem_replicate]

theorem pad_getLast? (data : List Byte) {bs : Nat} (hbs : 1 ≤ bs) :
    (pad data bs).getLast? = some (BitVec.ofNat 8 (padCount data.length bs)) := by
  simp [pad, List.getLast?_append, List.getLast?_replicate, (padCount_pos data.length hbs).ne']

/-! ### The unpadded length (R231) -/

section
variable {data : List Byte} {n : Byte} (hlast : data.getLast? = some n)
include hlast

theorem unpadLength_of_valid (hvalid : n.toNat ≤ data.length ∧ ∀ b ∈ data.drop (data.length - n.toNat), b = n) :
    unpadLength data = data.length - n.toNat := by
  obtain ⟨hlen, hall⟩ := hvalid
  have hall' : (data.drop (data.length - n.toNat)).all (· == n) = true := by simpa using hall
  simp only [unpadLength, hlast, if_neg (Nat.not_lt.mpr hlen), if_pos hall']

theorem unpadLength_of_not_valid
    (hinvalid : ¬(n.toNat ≤ data.length ∧ ∀ b ∈ data.drop (data.length - n.toNat), b = n)) :
    unpadLength data = data.length := by
  simp only [unpadLength, hlast]
  split
  · rfl
  · next hlen =>
    have hall : ¬(data.drop (data.length - n.toNat)).all (· == n) = true := fun hall =>
      hinvalid ⟨Nat.le_of_not_lt hlen, by simpa using hall⟩
    rw [if_neg hall]

end

/-- The last byte of a padded message counts its padding. -/
theorem unpadLength_pad (data : List Byte) {bs : Nat} (hlow : 1 ≤ bs) (htop : bs ≤ 255) :
    unpadLength (pad data bs) = data.length := by
  have hn : (BitVec.ofNat 8 (padCount data.length bs)).toNat = padCount data.length bs :=
    Nat.mod_eq_of_lt (by have := padCount_le data.length bs; omega)
  have hlen : (pad data bs).length - padCount data.length bs = data.length := by simp
  have hdrop : (pad data bs).drop data.length
      = List.replicate (padCount data.length bs) (BitVec.ofNat 8 (padCount data.length bs)) := List.drop_left
  have hlength := unpadLength_of_valid (pad_getLast? data hlow)
  rw [hn, hlen, hdrop] at hlength
  exact hlength ⟨by simp, fun _ => List.eq_of_mem_replicate⟩

/-- A last byte 0 leaves the whole length, valid or not (R232). -/
theorem unpadLength_append_zero (data : List Byte) : unpadLength (data ++ [0]) = (data ++ [0]).length := by
  have hlast : (data ++ [0]).getLast? = some (0 : Byte) := List.getLast?_concat
  exact unpadLength_of_valid hlast ⟨Nat.zero_le _, fun b hb => by simp at hb⟩

/-- Settles O28: the padding fills the last block, and its bytes count it. -/
theorem unpadOfPadIsTheLength : Obligations.UnpadOfPadIsTheLength := fun data bs hlow htop => by
  refine ⟨unpadLength_pad data hlow htop, ?_, ?_, unpadLength_append_zero data⟩
  · rw [pad_length, add_padCount_mod data.length hlow]
  · rw [pad_length]
    exact Nat.lt_add_of_pos_right (padCount_pos data.length hlow)

/-! ### PAD (R234) -/

/-- A success that outputs `out`, whose bytes are `byte 0`, `byte 1`, …. -/
theorem succeed_output {s : State} {out : List Byte} {n : Nat} {byte : Nat → Byte} (hlen : out.length = n)
    (hbyte : ∀ k (h : k < out.length), out[k] = byte k) :
    ∃ t, succeed (s.output out) = .next t ∧ Outputs s t n byte := by
  subst hlen
  exact ⟨_, rfl, rfl, fun k hk => (s.output_byte out k hk).trans (hbyte k hk), fun a ha => s.output_frame out a ha⟩

/-- A message longer than MAX_MSG stops PAD. -/
theorem execPad_of_overlong {bs : Byte} {s : State} (hbs : bs.toNat ≠ 0) (hlong : s.maxMsg < s.len) :
    execPad bs s = raiseError .lengthOverflow s := by
  rw [execPad, argNat, if_neg hbs, if_pos ((overlong_iff s).mpr hlong)]

/-- PAD of a message that is not too long turns on the padded length alone. -/
theorem execPad_of_not_overlong {bs : Byte} {s : State} (hbs : bs.toNat ≠ 0) (hlen : s.len ≤ s.maxMsg) :
    execPad bs s =
      if s.maxMsg + 16 < s.len + padCount s.len bs.toNat then raiseError .lengthOverflow s
      else succeed (s.output (pad s.message bs.toNat)) := by
  rw [execPad, argNat, if_neg hbs, if_neg ((overlong_iff s).not.mpr (Nat.not_lt.mpr hlen))]
  rfl

/-- Settles O26: the words are R106's, and the outcomes are those of R234's checks in their order. -/
theorem padAppendsPadCountBytes : Obligations.PadAppendsPadCountBytes := by
  refine ⟨fun w s hopc hbad => execute_illegal s ?_, fun bs s hbs => ?_⟩
  · rw [hopc]
    exact hbad.symm.imp_right fun harg => by rw [harg]; rfl
  have hpos : bs.toNat ≠ 0 := fun h => hbs (BitVec.eq_of_toNat_eq h)
  refine ⟨decodeOfEncodeGivesTheCommand (.pad bs) (bne_iff_ne.mpr hbs), execPad_of_overlong hpos,
    fun hlen hover => ?_, fun hlen hfits => ?_⟩
  · exact (execPad_of_not_overlong hpos hlen).trans (if_pos hover)
  · have hexec : exec (.pad bs) s = succeed (s.output (pad s.message bs.toNat)) :=
      (execPad_of_not_overlong hpos hlen).trans (if_neg (Nat.not_lt.mpr hfits))
    rw [hexec]
    refine succeed_output (by simp [padCount]) fun k hk => ?_
    rw [pad_getElem]
    simp [padCount]

/-! ### UNPAD_LEN (R235) -/

theorem message_getLast? {s : State} (hpos : 0 < s.len) : s.message.getLast? = some (s.ibufByte (s.len - 1)) := by
  have hlast : s.message.length - 1 < s.message.length := by
    rw [message_length]
    exact Nat.sub_one_lt_of_lt hpos
  rw [List.getLast?_eq_getElem?, List.getElem?_eq_getElem hlast, message_getElem, message_length]

/-- The bytes of the message from `m` on are all `n`. -/
theorem forall_mem_message_drop {s : State} {m : Nat} {n : Byte} :
    (∀ b ∈ s.message.drop m, b = n) ↔ ∀ k, m ≤ k → k < s.len → (s.ibufByte k).toNat = n.toNat := by
  rw [List.forall_mem_iff_getElem]
  simp only [List.length_drop, message_length, List.getElem_drop, message_getElem, BitVec.toNat_inj, State.len]
  refine ⟨fun hall k hmk hk => ?_, fun hall i hi => hall (m + i) (Nat.le_add_right m i) (by omega)⟩
  have hbyte := hall (k - m) (by omega)
  rwa [Nat.add_sub_cancel' hmk] at hbyte

theorem exec_unpadLen_of_overlong {s : State} (hlong : s.maxMsg < s.len) :
    exec .unpadLen s = raiseError .lengthOverflow s := if_pos ((overlong_iff s).mpr hlong)

theorem exec_unpadLen_of_not_overlong {s : State} (hlen : s.len ≤ s.maxMsg) :
    exec .unpadLen s = .next { s.completed with result := BitVec.ofNat 32 (unpadLength s.message) } :=
  if_neg ((overlong_iff s).not.mpr (Nat.not_lt.mpr hlen))

/-- Settles O27: RESULT is the unpadded length of the message, whose bytes are those of IBUF. -/
theorem unpadLenMeasuresPadding : Obligations.UnpadLenMeasuresPadding := by
  refine ⟨plainEncoding_opcode (i := .unpadLen) rfl fun _ => rfl, fun s => ⟨exec_unpadLen_of_overlong,
    fun hempty => ?_, fun hpos hlen hvalid => ?_, fun hpos hlen hinvalid => ?_⟩⟩
  · have hmessage : s.message = [] := List.eq_nil_of_length_eq_zero ((message_length s).trans hempty)
    rw [exec_unpadLen_of_not_overlong (hempty ▸ Nat.zero_le _), hmessage]
    rfl
  · have hlength := unpadLength_of_valid (message_getLast? hpos)
    rw [forall_mem_message_drop, message_length] at hlength
    rw [exec_unpadLen_of_not_overlong hlen, hlength hvalid]
  · have hlength := unpadLength_of_not_valid (message_getLast? hpos)
    rw [forall_mem_message_drop, message_length] at hlength
    rw [exec_unpadLen_of_not_overlong hlen, hlength hinvalid, BitVec.ofNat_toNat, BitVec.setWidth_eq]

end Sys2Proof.Machine
end

section
/-! SUPPORT. The mode engines as functions of byte sequences (45_modes.md R251 to R257, R264 to R268): blocks cut and joined, each
block of a CBC sequence, and that the decryptions undo the encryptions. -/

namespace Sys2Proof.Machine

/-! ### Blocks -/

/-- A byte sequence of whole blocks is its blocks joined. -/
theorem ofBlocks_toBlocks {data : List Byte} (h : data.length % 16 = 0) : ofBlocks (toBlocks data) = data := by
  refine List.ext_getElem (by rw [ofBlocks_length, toBlocks_length]; omega) fun k hk hk' => ?_
  rw [ofBlocks_getElem, toBlocks_getElem, blockAt_getElem _ _ _ (by omega) (by omega)]
  simp only [Nat.div_add_mod]

/-- Joined blocks are cut into the same blocks. -/
theorem toBlocks_ofBlocks (bs : List Block) : toBlocks (ofBlocks bs) = bs := by
  refine List.ext_getElem (by simp) fun j hj hj' => Vector.ext fun i hi => ?_
  have hk : 16 * j + i < (ofBlocks bs).length := by rw [ofBlocks_length]; omega
  have hdiv : (16 * j + i) / 16 = j := by omega
  have hmod : (16 * j + i) % 16 = i := by omega
  rw [toBlocks_getElem, blockAt_getElem _ _ _ hi hk, ofBlocks_getElem]
  simp only [hdiv, hmod]

@[simp] theorem xorBlock_getElem (a b : Block) (i : Nat) (hi : i < 16) : (xorBlock a b)[i] = a[i] ^^^ b[i] := by
  simp [xorBlock]

theorem xorBlock_xorBlock (a b : Block) : xorBlock (xorBlock a b) b = a := by
  refine Vector.ext fun i hi => ?_
  rw [xorBlock_getElem, xorBlock_getElem, BitVec.xor_assoc, BitVec.xor_self, BitVec.xor_zero]

/-! ### Block `j` of the CBC sequences (R255, R257)

The chaining value of block `j` is one block back, so the induction step tells block 1, which chains to the head, from later ones. -/

theorem cbcEncryptBlocks_getElem (E : Block → Block) (prev : Block) (ps : List Block) (j : Nat) (hj : j < ps.length) :
    (cbcEncryptBlocks E prev ps)[j]'(by simpa using hj) =
      E (xorBlock ps[j] (if j = 0 then prev else (cbcEncryptBlocks E prev ps)[j - 1]'(by simp; omega))) := by
  induction ps generalizing prev j with
  | nil => exact absurd hj (Nat.not_lt_zero j)
  | cons p ps ih =>
    match j with
    | 0 => rfl
    | 1 => exact ih _ 0 (Nat.lt_of_succ_lt_succ hj)
    | j + 2 => exact ih _ (j + 1) (Nat.lt_of_succ_lt_succ hj)

theorem cbcDecryptBlocks_getElem (D : Block → Block) (prev : Block) (cs : List Block) (j : Nat) (hj : j < cs.length) :
    (cbcDecryptBlocks D prev cs)[j]'(by simpa using hj) =
      xorBlock (D cs[j]) (if j = 0 then prev else cs[j - 1]'(by omega)) := by
  induction cs generalizing prev j with
  | nil => exact absurd hj (Nat.not_lt_zero j)
  | cons c cs ih =>
    match j with
    | 0 => rfl
    | 1 => exact ih _ 0 (Nat.lt_of_succ_lt_succ hj)
    | j + 2 => exact ih _ (j + 1) (Nat.lt_of_succ_lt_succ hj)

/-! ### What the decryptions undo (R261, R268) -/

theorem pad_length_mod_sixteen (m : List Byte) : (pad m 16).length % 16 = 0 := by
  rw [pad_length, add_padCount_mod m.length (by decide)]

section
variable {E D : Block → Block} (hinv : ∀ b, D (E b) = b)
include hinv

theorem ecbDecryptRaw_ecbEncrypt (m : List Byte) : ecbDecryptRaw D (ecbEncrypt E m) = pad m 16 := by
  have hblocks : (toBlocks (pad m 16)).map (D ∘ E) = toBlocks (pad m 16) := by
    rw [show D ∘ E = id from funext hinv, List.map_id]
  rw [ecbDecryptRaw, ecbEncrypt, toBlocks_ofBlocks, List.map_map, hblocks, ofBlocks_toBlocks (pad_length_mod_sixteen m)]

/-- Each ciphertext block is the chaining value of the next on both sides. -/
theorem cbcDecryptBlocks_cbcEncryptBlocks (prev : Block) (ps : List Block) :
    cbcDecryptBlocks D prev (cbcEncryptBlocks E prev ps) = ps := by
  induction ps generalizing prev with
  | nil => rfl
  | cons p ps ih => rw [cbcEncryptBlocks, cbcDecryptBlocks, hinv, xorBlock_xorBlock, ih]

theorem cbcDecryptRaw_cbcEncrypt (iv : Block) (m : List Byte) : cbcDecryptRaw D iv (cbcEncrypt E iv m) = pad m 16 := by
  rw [cbcDecryptRaw, cbcEncrypt, toBlocks_ofBlocks, cbcDecryptBlocks_cbcEncryptBlocks hinv,
    ofBlocks_toBlocks (pad_length_mod_sixteen m)]

end

theorem ctrFrom_ctrFrom (E : Block → Block) (n : U64) (k : Nat) (m : List Byte) : ctrFrom E n k (ctrFrom E n k m) = m := by
  induction m generalizing k with
  | nil => rfl
  | cons b m ih => rw [ctrFrom, ctrFrom, ih, BitVec.xor_assoc, BitVec.xor_self, BitVec.xor_zero]

/-! ### The end of a decryption (R253, R257) -/

theorem unpadLength_le (data : List Byte) : unpadLength data ≤ data.length := by
  unfold unpadLength
  split
  · exact Nat.zero_le _
  · split
    · exact le_rfl
    · split
      · exact Nat.sub_le _ _
      · exact le_rfl

/-- Stripping a padded message succeeds and gives the message (44_padding.md R233). -/
theorem finishDecrypt_pad (m : List Byte) (s : State) : finishDecrypt (pad m 16) s = succeed (s.output m) := by
  have hshort : m.length ≠ (pad m 16).length := by
    have := padCount_pos m.length (bs := 16) (by decide)
    rw [pad_length]
    omega
  rw [finishDecrypt_eq, unpadLength_pad m (by decide) (by decide), if_neg hshort, pad, List.take_left]

/-- A command that ends in stripping the bytes `d` ends as R253 and R257 say. -/
theorem decryptEnds_of_finishDecrypt {i : Instr} {s : State} {d : Nat → Byte}
    (hexec : exec i s = finishDecrypt ((List.range s.len).map d) s) : DecryptEnds i s d := by
  have hle : unpadLength ((List.range s.len).map d) ≤ s.len := by
    simpa using unpadLength_le ((List.range s.len).map d)
  rw [finishDecrypt_eq, List.length_map, List.length_range] at hexec
  refine ⟨fun hbad => hexec.trans (if_pos hbad), fun hgood => ?_⟩
  rw [hexec, if_neg hgood]
  exact succeed_output (by simpa using hle) fun k hk => by simp

end Sys2Proof.Machine
end

section
/-! The commands of the mode engines ECB, CBC and CTR (45_modes.md R252 to R268): settles O29 to O36. -/

namespace Sys2Proof.Machine

/-! ### The checks before any cryptographic work (R250) -/

/-- `r` after the two checks that every mode command and KS_READ begin with: of the key or the keystream, and of IN_LEN. -/
def afterChecks (valid : Bool) (s : State) (r : Result) : Result :=
  if !valid then raiseError .noKey s else if s.overlong then raiseError .lengthOverflow s else r

section
variable {i : Instr} {valid : Bool} {s : State} {r : Result} (hexec : exec i s = afterChecks valid s r)
include hexec

theorem exec_of_noKey (hvalid : valid = false) : exec i s = .next (s.failedWith 5) := by
  rw [hexec, afterChecks, hvalid, if_pos Bool.not_false]
  rfl

theorem exec_of_overlong (hvalid : valid = true) (hlong : s.maxMsg < s.len) : exec i s = .next (s.failedWith 6) := by
  rw [hexec, afterChecks, hvalid, if_neg (by decide), if_pos ((overlong_iff s).mpr hlong)]
  rfl

theorem exec_of_pass (hvalid : valid = true) (hlen : s.len ≤ s.maxMsg) : exec i s = r := by
  rw [hexec, afterChecks, hvalid, if_neg (by decide), if_neg ((overlong_iff s).not.mpr (Nat.not_lt.mpr hlen))]

end

section
variable {s : State} {r : Result}

/-- The check of IV_LEN (60_exceptions.md R303). -/
theorem ivCheck_of_wrong (hiv : s.ivLen.toNat ≠ 16) :
    (if s.wrongIv then raiseError .wrongSizeIv s else r) = .next (s.failedWith 3) := if_pos ((wrongIv_iff s).mpr hiv)

theorem ivCheck_of_right (hiv : s.ivLen.toNat = 16) : (if s.wrongIv then raiseError .wrongSizeIv s else r) = r :=
  if_neg ((wrongIv_iff s).not.mpr (not_not.mpr hiv))

/-- The check of a ciphertext's length (60_exceptions.md R302). -/
theorem blockCheck_of_ragged (hragged : s.len % 16 ≠ 0) :
    (if s.ragged then raiseError .irregularDecryptLength s else r) = .next (s.failedWith 2) :=
  if_pos ((ragged_iff s).mpr hragged)

theorem blockCheck_of_whole (hwhole : s.len % 16 = 0) :
    (if s.ragged then raiseError .irregularDecryptLength s else r) = r :=
  if_neg ((ragged_iff s).not.mpr (not_not.mpr hwhole))

end

section
variable (s : State)

theorem exec_encEcb : exec .encEcb s = afterChecks s.keyValid s
    (succeed (s.output (ecbEncrypt (cipher s.ks s.nr.toNat) s.message))) := rfl

theorem exec_decEcb : exec .decEcb s = afterChecks s.keyValid s
    (if s.ragged then raiseError .irregularDecryptLength s
      else finishDecrypt (ecbDecryptRaw (invCipher s.ks s.nr.toNat) s.message) s) := rfl

theorem exec_encCbc : exec .encCbc s = afterChecks s.keyValid s
    (if s.wrongIv then raiseError .wrongSizeIv s
      else succeed (s.output (cbcEncrypt (cipher s.ks s.nr.toNat) s.iv s.message))) := rfl

theorem exec_decCbc : exec .decCbc s = afterChecks s.keyValid s
    (if s.wrongIv then raiseError .wrongSizeIv s
      else if s.ragged then raiseError .irregularDecryptLength s
      else finishDecrypt (cbcDecryptRaw (invCipher s.ks s.nr.toNat) s.iv s.message) s) := rfl

theorem exec_ctrXform : exec .ctrXform s = afterChecks s.keyValid s
    (succeed (s.output (ctrTransform (cipher s.ks s.nr.toNat) s.hostNonce s.message))) := rfl

end

/-! ### The commands once every check passes -/

section
variable {s : State} (hkey : s.keyValid = true) (hlen : s.len ≤ s.maxMsg)
include hkey hlen

theorem exec_encEcb_of_pass :
    exec .encEcb s = succeed (s.output (ecbEncrypt (cipher s.ks s.nr.toNat) s.message)) :=
  exec_of_pass (exec_encEcb s) hkey hlen

theorem exec_decEcb_of_pass (hwhole : s.len % 16 = 0) :
    exec .decEcb s = finishDecrypt (ecbDecryptRaw (invCipher s.ks s.nr.toNat) s.message) s :=
  (exec_of_pass (exec_decEcb s) hkey hlen).trans (blockCheck_of_whole hwhole)

theorem exec_encCbc_of_pass (hiv : s.ivLen.toNat = 16) :
    exec .encCbc s = succeed (s.output (cbcEncrypt (cipher s.ks s.nr.toNat) s.iv s.message)) :=
  (exec_of_pass (exec_encCbc s) hkey hlen).trans (ivCheck_of_right hiv)

theorem exec_decCbc_of_pass (hiv : s.ivLen.toNat = 16) (hwhole : s.len % 16 = 0) :
    exec .decCbc s = finishDecrypt (cbcDecryptRaw (invCipher s.ks s.nr.toNat) s.iv s.message) s :=
  (exec_of_pass (exec_decCbc s) hkey hlen).trans ((ivCheck_of_right hiv).trans (blockCheck_of_whole hwhole))

theorem exec_ctrXform_of_pass :
    exec .ctrXform s = succeed (s.output (ctrTransform (cipher s.ks s.nr.toNat) s.hostNonce s.message)) :=
  exec_of_pass (exec_ctrXform s) hkey hlen

end

/-! ### The message's blocks -/

/-- `message_length` in the statements' word for IN_LEN. -/
theorem message_length_eq_len (s : State) : s.message.length = s.len := message_length s

theorem length_padded_message (s : State) : (pad s.message 16).length = 16 * (s.len / 16 + 1) := by
  rw [pad_length, message_length_eq_len, padCount]
  omega

theorem toBlocks_message (s : State) : toBlocks s.message = (List.range (s.len / 16)).map (inBlock s) := by
  rw [toBlocks, message_length_eq_len]
  refine List.map_congr_left fun j hj => Vector.ext fun i hi => ?_
  have hlt : 16 * j + i < s.message.length := by
    rw [List.mem_range] at hj
    rw [message_length_eq_len]
    omega
  rw [blockAt_getElem _ _ _ hi hlt, message_getElem, inBlock, Vector.getElem_ofFn]

theorem toBlocks_padded_message (s : State) :
    toBlocks (pad s.message 16) = (List.range (s.len / 16 + 1)).map (paddedBlock s) := by
  rw [toBlocks, length_padded_message, Nat.mul_div_cancel_left _ (by decide)]
  refine List.map_congr_left fun j hj => Vector.ext fun i hi => ?_
  have hlt : 16 * j + i < (pad s.message 16).length := by
    rw [List.mem_range] at hj
    rw [length_padded_message]
    omega
  rw [blockAt_getElem _ _ _ hi hlt, pad_getElem]
  simp [paddedBlock, paddedByte, padCount]

/-- The bytes of the blocks `f 0 .. f (n - 1)` joined. -/
theorem ofBlocks_map_range (f : Nat → Block) (n : Nat) :
    ofBlocks ((List.range n).map f) = (List.range (16 * n)).map fun k => byteOf (f (k / 16)) k := by
  refine List.ext_getElem (by simp) fun k hk hk' => ?_
  simp [ofBlocks_getElem, byteOf]

/-- The state after a success that outputs `out`, whose bytes are `byte 0`, `byte 1`, …. -/
theorem outputs_output {s : State} {out : List Byte} {n : Nat} {byte : Nat → Byte} (hlen : out.length = n)
    (hbyte : ∀ k (h : k < out.length), out[k] = byte k) : Outputs s (s.output out).completed n byte := by
  obtain ⟨t, ht, hout⟩ := succeed_output (s := s) hlen hbyte
  cases succeed_next.mp ht
  exact hout

/-! ### ECB (R252, R254) -/

theorem ecbEncrypt_message (E : Block → Block) (s : State) :
    ecbEncrypt E s.message = (List.range (16 * (s.len / 16 + 1))).map fun k => byteOf (E (paddedBlock s (k / 16))) k := by
  rw [ecbEncrypt, toBlocks_padded_message, List.map_map, ofBlocks_map_range]
  rfl

/-- Settles O29: each block of the padded message is enciphered by itself. -/
theorem encEcbEnciphersPaddedBlocks : Obligations.EncEcbEnciphersPaddedBlocks := by
  refine ⟨plainEncoding_opcode (i := .encEcb) rfl fun _ => rfl, fun s =>
    ⟨exec_of_noKey (exec_encEcb s), exec_of_overlong (exec_encEcb s), fun hkey hlen => ?_⟩⟩
  rw [exec_encEcb_of_pass hkey hlen, ecbEncrypt_message]
  exact succeed_output (by simp) (by simp)

theorem ecbDecryptRaw_message {s : State} (hwhole : s.len % 16 = 0) :
    ecbDecryptRaw (invCipher s.ks s.nr.toNat) s.message = (List.range s.len).map (ecbPlain s) := by
  rw [ecbDecryptRaw, toBlocks_message, List.map_map, ofBlocks_map_range, Nat.mul_div_cancel' (Nat.dvd_of_mod_eq_zero hwhole)]
  rfl

/-- Settles O30: the deciphered bytes are those the statement names, and their padding is stripped. -/
theorem decEcbDeciphersAndStrips : Obligations.DecEcbDeciphersAndStrips := by
  refine ⟨plainEncoding_opcode (i := .decEcb) rfl fun _ => rfl, fun s =>
    ⟨exec_of_noKey (exec_decEcb s), exec_of_overlong (exec_decEcb s), fun hkey hlen hragged => ?_,
      fun hkey hlen hwhole => ?_⟩⟩
  · exact (exec_of_pass (exec_decEcb s) hkey hlen).trans (blockCheck_of_ragged hragged)
  · exact decryptEnds_of_finishDecrypt (ecbDecryptRaw_message hwhole ▸ exec_decEcb_of_pass hkey hlen hwhole)

/-! ### CBC (R256, R260) -/

/-- Block `j` of an output of whole blocks. -/
theorem outBlock_output (s : State) (bs : List Block) {j : Nat} (hj : j < bs.length) :
    outBlock (s.output (ofBlocks bs)) j = bs[j] := by
  refine Vector.ext fun i hi => ?_
  have hk : 16 * j + i < (ofBlocks bs).length := by rw [ofBlocks_length]; omega
  have hdiv : (16 * j + i) / 16 = j := by omega
  have hmod : (16 * j + i) % 16 = i := by omega
  rw [outBlock, Vector.getElem_ofFn, State.output_byte _ _ _ hk, ofBlocks_getElem]
  simp only [hdiv, hmod]

theorem outBlock_cbcEncrypt (E : Block → Block) (s : State) {j : Nat} (hj : j < s.len / 16 + 1) :
    outBlock (s.output (cbcEncrypt E s.iv s.message)) j =
      E (xorBlock (paddedBlock s j)
        (if j = 0 then s.iv else outBlock (s.output (cbcEncrypt E s.iv s.message)) (j - 1))) := by
  have hblocks : j < (toBlocks (pad s.message 16)).length := by
    rwa [toBlocks_padded_message, List.length_map, List.length_range]
  have hout : j < (cbcEncryptBlocks E s.iv (toBlocks (pad s.message 16))).length := by
    rwa [cbcEncryptBlocks_length]
  rw [cbcEncrypt, outBlock_output _ _ hout, outBlock_output _ _ (Nat.lt_of_le_of_lt (Nat.sub_le j 1) hout),
    cbcEncryptBlocks_getElem _ _ _ _ hblocks]
  simp only [toBlocks_padded_message, List.getElem_map, List.getElem_range]

/-- Settles O31: the chaining value of block `j` is output block `j - 1`. -/
theorem encCbcChainsCiphertextBlocks : Obligations.EncCbcChainsCiphertextBlocks := by
  refine ⟨plainEncoding_opcode (i := .encCbc) rfl fun _ => rfl, fun s =>
    ⟨exec_of_noKey (exec_encCbc s), exec_of_overlong (exec_encCbc s), fun hkey hlen hiv => ?_, fun hkey hlen hiv => ?_⟩⟩
  · exact (exec_of_pass (exec_encCbc s) hkey hlen).trans (ivCheck_of_wrong hiv)
  have hlength : (cbcEncrypt (cipher s.ks s.nr.toNat) s.iv s.message).length = 16 * (s.len / 16 + 1) := by
    rw [cbcEncrypt_length, length_padded_message, Nat.mul_div_cancel_left _ (by decide)]
  refine ⟨_, exec_encCbc_of_pass hkey hlen hiv, outputs_output hlength fun k hk => (s.output_byte _ k hk).symm,
    fun j hj => (outBlock_cbcEncrypt _ s hj).trans ?_⟩
  by_cases hfirst : j = 0
  · subst hfirst
    rfl
  · simp only [if_neg hfirst]
    rfl

theorem cbcDecryptBlocks_map_range (D : Block → Block) (prev : Block) (c : Nat → Block) (n : Nat) :
    cbcDecryptBlocks D prev ((List.range n).map c) =
      (List.range n).map fun j => xorBlock (D (c j)) (if j = 0 then prev else c (j - 1)) := by
  refine List.ext_getElem (by simp) fun j hj hj' => ?_
  rw [cbcDecryptBlocks_getElem _ _ _ _ (by simpa using hj)]
  simp only [List.getElem_map, List.getElem_range]

theorem cbcDecryptRaw_message {s : State} (hwhole : s.len % 16 = 0) :
    cbcDecryptRaw (invCipher s.ks s.nr.toNat) s.iv s.message = (List.range s.len).map (cbcPlain s) := by
  rw [cbcDecryptRaw, toBlocks_message, cbcDecryptBlocks_map_range, ofBlocks_map_range,
    Nat.mul_div_cancel' (Nat.dvd_of_mod_eq_zero hwhole)]
  refine List.map_congr_left fun k _ => ?_
  rw [byteOf, xorBlock_getElem, cbcPlain]
  congr 1
  by_cases hfirst : k < 16
  · rw [if_pos hfirst]
    simp [show k / 16 = 0 by omega, byteOf]
  · have hprev : 16 * (k / 16 - 1) + k % 16 = k - 16 := by omega
    rw [if_neg hfirst]
    simp [show k / 16 ≠ 0 by omega, inBlock, hprev]

/-- Settles O32: the unchained bytes are those the statement names, and their padding is stripped. -/
theorem decCbcUnchainsAndStrips : Obligations.DecCbcUnchainsAndStrips := by
  refine ⟨plainEncoding_opcode (i := .decCbc) rfl fun _ => rfl, fun s =>
    ⟨exec_of_noKey (exec_decCbc s), exec_of_overlong (exec_decCbc s), fun hkey hlen hiv => ?_, fun hkey hlen hiv hragged => ?_,
      fun hkey hlen hiv hwhole => ?_⟩⟩
  · exact (exec_of_pass (exec_decCbc s) hkey hlen).trans (ivCheck_of_wrong hiv)
  · exact (exec_of_pass (exec_decCbc s) hkey hlen).trans ((ivCheck_of_right hiv).trans (blockCheck_of_ragged hragged))
  · exact decryptEnds_of_finishDecrypt (cbcDecryptRaw_message hwhole ▸ exec_decCbc_of_pass hkey hlen hiv hwhole)

/-! ### CTR (R265, R266) -/

theorem ctrBlock_nonce (n i : U64) (j : Fin 8) : (ctrBlock n i)[j.val] = (n >>> (8 * j.val)).setWidth 8 := by
  have hj : j.val < 8 := j.isLt
  simp only [ctrBlock, Vector.getElem_ofFn, if_pos hj]
  ext b hb
  simp

theorem ctrBlock_counter (n i : U64) (j : Fin 8) : (ctrBlock n i)[8 + j.val] = (i >>> (8 * j.val)).setWidth 8 := by
  simp only [ctrBlock, Vector.getElem_ofFn, if_neg (Nat.not_lt.mpr (Nat.le_add_right 8 j.val)), Nat.add_sub_cancel_left]
  ext b hb
  simp

theorem ksByte_cipher (s : State) (n : U64) (k : Nat) : ksByte (cipher s.ks s.nr.toNat) n k = streamByte s n k := rfl

/-- Settles O33: the transform starts at keystream byte 0. -/
theorem ctrXformXorsKeystream : Obligations.CtrXformXorsKeystream := by
  refine ⟨plainEncoding_opcode (i := .ctrXform) rfl fun _ => rfl,
    fun n i j => ⟨ctrBlock_nonce n i j, ctrBlock_counter n i j⟩,
    fun s => ⟨exec_of_noKey (exec_ctrXform s), exec_of_overlong (exec_ctrXform s), fun hkey hlen => ?_⟩⟩
  rw [exec_ctrXform_of_pass hkey hlen]
  refine succeed_output ((ctrFrom_length _ _ _ _).trans (message_length_eq_len s)) fun k hk => ?_
  have hk' : k < s.message.length := by simpa [ctrTransform] using hk
  simp only [ctrTransform, ctrFrom_getElem _ _ _ _ _ hk', message_getElem, Nat.zero_add, ksByte_cipher]

/-! ### Round trips (R261, R268) -/

/-- The Host's copy of an output, with IN_LEN = OUT_LEN, is a message of the same bytes. -/
theorem message_of_copied_output {s t u : State} {out : List Byte} (ht : succeed (s.output out) = .next t)
    (hfits : out.length < 2 ^ 32) (hlen : u.inLen = t.outLen)
    (hcopy : ∀ k, k < t.outLen.toNat → u.ibufByte k = t.obufByte k) : u.message = out := by
  cases succeed_next.mp ht
  have hcount : (BitVec.ofNat 32 out.length).toNat = out.length := Nat.mod_eq_of_lt hfits
  have hlength : u.message.length = out.length := by rw [message_length, hlen]; exact hcount
  refine List.ext_getElem hlength fun k hk hk' => ?_
  rw [message_getElem, hcopy k (hk'.trans_eq hcount.symm)]
  exact s.output_byte out k hk'

/-- A command of `u` that outputs the message of `s` gives it back. -/
theorem outputs_message {s u : State} {r : Result} (hr : r = succeed (u.output s.message)) :
    ∃ v, r = .next v ∧ v.err = 0 ∧ v.outLen = s.inLen ∧ ∀ k, k < s.len → v.obufByte k = s.ibufByte k := by
  refine ⟨_, hr, rfl, ?_, fun k hk => ?_⟩
  · change BitVec.ofNat 32 s.message.length = s.inLen
    rw [message_length, BitVec.ofNat_toNat, BitVec.setWidth_eq]
  · have hk' : k < s.message.length := (message_length_eq_len s).symm ▸ hk
    exact (u.output_byte _ k hk').trans (message_getElem s k hk')

/-- A successful output ends with ERR = 0. -/
theorem err_of_succeed {s t : State} (h : succeed s = .next t) : t.err = 0 := by
  rw [succeed_next.mp h]

/-- The copied ciphertext of a message that leaves MAX_MSG room for its padding passes the checks of IN_LEN (R261). -/
theorem copied_ciphertext {s t u : State} {out : List Byte} (hlegal : legalMaxMsg s.maxMsg = true)
    (hroom : s.len + 16 ≤ s.maxMsg) (hlength : out.length = 16 * ((pad s.message 16).length / 16))
    (ht : succeed (s.output out) = .next t) (hmax : u.maxMsg = s.maxMsg) (hlen : u.inLen = t.outLen)
    (hcopy : ∀ k, k < t.outLen.toNat → u.ibufByte k = t.obufByte k) :
    u.message = out ∧ u.len ≤ u.maxMsg ∧ u.len % 16 = 0 := by
  have hbound : s.maxMsg ≤ 65520 := by
    simp only [legalMaxMsg, Bool.and_eq_true, decide_eq_true_eq] at hlegal
    exact hlegal.2
  rw [length_padded_message, Nat.mul_div_cancel_left _ (by decide)] at hlength
  have hmessage := message_of_copied_output ht (by omega) hlen hcopy
  have hcount : u.len = out.length := by rw [← message_length_eq_len, hmessage]
  exact ⟨hmessage, by omega, by omega⟩

/-- Settles O34: deciphering the copied output gives the padded message, and stripping it the message. -/
theorem ecbRoundTrip : Obligations.EcbRoundTrip := by
  intro s t u hlegal hkey hroom ht hkey' hks hnr hmax hlen hcopy
  rw [exec_encEcb_of_pass hkey (by omega)] at ht
  obtain ⟨hmessage, hshort, hwhole⟩ := copied_ciphertext hlegal hroom (ecbEncrypt_length _ _) ht hmax hlen hcopy
  have hexec : exec .decEcb u = succeed (u.output s.message) := by
    rw [exec_decEcb_of_pass hkey' hshort hwhole, hmessage, hks, hnr, ecbDecryptRaw_ecbEncrypt (invCipher_cipher _ _),
      finishDecrypt_pad]
  exact ⟨err_of_succeed ht, outputs_message hexec⟩

/-- Settles O35: unchaining the copied output with the same IV gives the padded message. -/
theorem cbcRoundTrip : Obligations.CbcRoundTrip := by
  intro s t u hlegal hkey hroom hivLen ht hkey' hks hnr hmax hlen hivLen' hiv hcopy
  rw [exec_encCbc_of_pass hkey (by omega) (by rw [hivLen]; rfl)] at ht
  obtain ⟨hmessage, hshort, hwhole⟩ := copied_ciphertext hlegal hroom (cbcEncrypt_length _ _ _) ht hmax hlen hcopy
  have hexec : exec .decCbc u = succeed (u.output s.message) := by
    rw [exec_decCbc_of_pass hkey' hshort (by rw [hivLen']; rfl) hwhole, hmessage, hks, hnr, hiv,
      cbcDecryptRaw_cbcEncrypt (invCipher_cipher _ _), finishDecrypt_pad]
  exact ⟨err_of_succeed ht, outputs_message hexec⟩

/-- Settles O36: the second XOR with the same keystream cancels the first. -/
theorem ctrXformIsItsOwnInverse : Obligations.CtrXformIsItsOwnInverse := by
  intro s t u hkey hshort ht hkey' hks hnr hmax hlen hlo hhi hcopy
  rw [exec_ctrXform_of_pass hkey hshort] at ht
  have hlength := (ctrFrom_length (cipher s.ks s.nr.toNat) s.hostNonce 0 s.message).trans (message_length_eq_len s)
  have hmessage := message_of_copied_output ht (hlength.trans_lt s.inLen.isLt) hlen hcopy
  have hshort' : u.len ≤ u.maxMsg := by
    rw [hmax, ← message_length_eq_len, hmessage]
    exact hlength.trans_le hshort
  have hexec : exec .ctrXform u = succeed (u.output s.message) := by
    rw [exec_ctrXform_of_pass hkey' hshort', hmessage, hks, hnr, State.hostNonce, hlo, hhi, ctrTransform, ctrTransform,
      ctrFrom_ctrFrom]
  exact ⟨err_of_succeed ht, outputs_message hexec⟩

end Sys2Proof.Machine
end

section
/-! The keystream cursor (45_modes.md R270 to R274): settles O37 to O41. -/

namespace Sys2Proof.Machine

/-! ### The cursor (R273) -/

theorem cursorByte_eq (s : State) : s.cursorByte = streamByte s s.ksNonce s.cursor := by
  have hctr : s.cursor / 16 = s.ksCtr.toNat := by unfold State.cursor; omega
  have hidx : s.cursor % 16 = s.ksIdx.toNat := by unfold State.cursor; omega
  simp only [State.cursorByte, streamByte, byteOf, hctr, hidx, BitVec.ofNat_toNat, BitVec.setWidth_eq, State.encipher]

/-- The counter wraps modulo 2^64, so the place modulo 2^68 (R267). -/
theorem cursor_advanceCursor (s : State) : s.advanceCursor.cursor = (s.cursor + 1) % 2 ^ 68 := by
  have hctr := s.ksCtr.isLt
  have hidx := s.ksIdx.isLt
  unfold State.cursor
  rw [State.advanceCursor_ksCtr, State.advanceCursor_ksIdx]
  split
  · next hlast =>
    have hwrap : (s.ksCtr + 1).toNat = (s.ksCtr.toNat + 1) % 2 ^ 64 := BitVec.toNat_add _ _
    have hzero : (0 : BitVec 4).toNat = 0 := rfl
    have hfifteen : s.ksIdx.toNat = 15 := congrArg BitVec.toNat hlast
    omega
  · next hinner =>
    have hne : s.ksIdx.toNat ≠ 15 := fun h => hinner (BitVec.eq_of_toNat_eq h)
    have hsucc : (s.ksIdx + 1).toNat = (s.ksIdx.toNat + 1) % 2 ^ 4 := BitVec.toNat_add _ _
    omega

theorem cursor_lt (s : State) : s.cursor < 2 ^ 68 := by
  have hctr := s.ksCtr.isLt
  have hidx := s.ksIdx.isLt
  unfold State.cursor
  omega

theorem cursor_advanceBy (s : State) (n : Nat) : (s.advanceBy n).cursor = (s.cursor + n) % 2 ^ 68 := by
  induction n generalizing s with
  | zero => exact (Nat.mod_eq_of_lt (cursor_lt s)).symm
  | succ n ih =>
    rw [State.advanceBy, ih, cursor_advanceCursor, Nat.mod_add_mod, Nat.add_assoc, Nat.add_comm 1 n]

/-- The place determines counter and index. -/
theorem cursor_inj {s t : State} (h : s.cursor = t.cursor) : s.ksCtr = t.ksCtr ∧ s.ksIdx = t.ksIdx := by
  have hs := s.ksIdx.isLt
  have ht := t.ksIdx.isLt
  unfold State.cursor at h
  exact ⟨BitVec.eq_of_toNat_eq (by omega), BitVec.eq_of_toNat_eq (by omega)⟩

/-- The keystream repeats after 2^68 bytes. -/
theorem streamByte_mod (s : State) (n : U64) (k : Nat) : streamByte s n (k % 2 ^ 68) = streamByte s n k := by
  have hblock : BitVec.ofNat 64 (k % 2 ^ 68 / 16) = BitVec.ofNat 64 (k / 16) := by
    apply BitVec.eq_of_toNat_eq
    simp only [BitVec.toNat_ofNat]
    omega
  have hbyte : k % 2 ^ 68 % 16 = k % 16 := by omega
  simp only [streamByte, byteOf, hblock, hbyte]

/-- A keystream byte depends on the key schedule only (R264). -/
theorem streamByte_congr {s t : State} (hks : t.ks = s.ks) (hnr : t.nr = s.nr) : streamByte t = streamByte s := by
  funext n k
  rw [streamByte, streamByte, hks, hnr]

theorem cursorBytes_getElem_eq (s : State) (n k : Nat) (h : k < (s.cursorBytes n).length) :
    (s.cursorBytes n)[k] = streamByte s s.ksNonce (s.cursor + k) := by
  rw [State.cursorBytes_getElem, cursorByte_eq, cursor_advanceBy, streamByte_mod, State.advanceBy_ksNonce,
    streamByte_congr (State.advanceBy_ks s k) (State.advanceBy_nr s k)]

/-! ### KS_RESET and KS_NEXT (R270, R272) -/

theorem exec_ksReset_of_noKey {s : State} (hkey : s.keyValid = false) : exec .ksReset s = .next (s.failedWith 5) :=
  if_pos (by rw [hkey, Bool.not_false])

theorem exec_ksReset_of_key {s : State} (hkey : s.keyValid = true) :
    exec .ksReset s = .next { s.completed with ksNonce := s.hostNonce, ksCtr := 0, ksIdx := 0, ksValid := true } :=
  if_neg (by rw [hkey]; decide)

/-- Settles O37: the one check is of the key. -/
theorem ksResetStartsTheCursor : Obligations.KsResetStartsTheCursor :=
  ⟨plainEncoding_opcode (i := .ksReset) rfl fun _ => rfl, fun _ => ⟨exec_ksReset_of_noKey, exec_ksReset_of_key⟩⟩

/-- Settles O39: the byte is the one at the cursor's place, and one move writes KS_IDX and KS_CTR only. -/
theorem ksNextGivesOneByte : Obligations.KsNextGivesOneByte := by
  refine ⟨plainEncoding_opcode (i := .ksNext) rfl fun _ => rfl, fun s => ⟨fun hvalid => ?_, fun hvalid => ?_⟩⟩
  · exact if_pos (by rw [hvalid, Bool.not_false])
  have hexec : exec .ksNext s = succeed (s.advanceCursor.setResult (zext s.cursorByte)) :=
    if_neg (by rw [hvalid]; decide)
  have hlast : s.ksIdx = 15 ↔ s.ksIdx.toNat = 15 := BitVec.toNat_inj.symm
  rw [hexec, cursorByte_eq, State.advanceCursor_frame, State.advanceCursor_ksCtr, State.advanceCursor_ksIdx]
  simp only [hlast]
  rfl

/-! ### KS_READ (R271) -/

theorem exec_ksRead (s : State) : exec .ksRead s = afterChecks s.ksValid s
    (succeed ((s.advanceBy s.len).output (s.cursorBytes s.len))) := rfl

/-- Settles O38: `n` moves write the cursor only, and the byte after `k` of them is the one `k` places on. -/
theorem ksReadOutputsTheNextBytes : Obligations.KsReadOutputsTheNextBytes := by
  refine ⟨plainEncoding_opcode (i := .ksRead) rfl fun _ => rfl, fun s =>
    ⟨exec_of_noKey (exec_ksRead s), exec_of_overlong (exec_ksRead s), fun hvalid hlen => ?_⟩⟩
  refine ⟨((s.advanceBy s.len).output (s.cursorBytes s.len)).completed, exec_of_pass (exec_ksRead s) hvalid hlen,
    cursor_advanceBy s s.len, ?_⟩
  have hmoved : { s with ksCtr := (s.advanceBy s.len).ksCtr, ksIdx := (s.advanceBy s.len).ksIdx } = s.advanceBy s.len :=
    (State.advanceBy_frame s s.len).symm
  exact hmoved ▸ outputs_output (State.cursorBytes_length s s.len) (cursorBytes_getElem_eq s s.len)

/-! ### The life of the keystream (R274) -/

/-- KS_VALID is the output of MAKE_KEY and KS_RESET (R23). -/
theorem withOutputsOf_ksValid {i : Instr} (s u : State) (hkey : i ≠ .makeKey) (hreset : i ≠ .ksReset) :
    (withOutputsOf i s u).ksValid = s.ksValid := by
  cases i with
  | makeKey => exact absurd rfl hkey
  | ksReset => exact absurd rfl hreset
  | _ => rfl

theorem exec_makeKey_ksValid {s t : State} (ht : exec .makeKey s = .next t) : t.ksValid = false := by
  by_cases h : keyLengthLegal s.keyLen = true
  · cases ht.symm.trans (exec_makeKey_of_legal h)
    rfl
  · cases ht.symm.trans (exec_makeKey_of_not_legal h)
    rfl

theorem exec_ksReset_ksValid {s t : State} (ht : exec .ksReset s = .next t) : t.ksValid = (s.keyValid || s.ksValid) := by
  by_cases h : s.keyValid = true
  · cases ht.symm.trans (exec_ksReset_of_key h)
    rw [h, Bool.true_or]
  · rw [Bool.not_eq_true] at h
    cases ht.symm.trans (exec_ksReset_of_noKey h)
    rw [h, Bool.false_or]
    rfl

/-- Settles O41: the outputs of a command but MAKE_KEY and KS_RESET hold nothing of the keystream's key, nonce or validity. -/
theorem keystreamLivesUnderOneKey : Obligations.KeystreamLivesUnderOneKey := by
  intro i s t ht
  have hframe := exec_frame ht
  refine ⟨fun h => ?_, fun hkey hreset => ?_, fun h => ?_, fun hkey => ?_⟩
  · subst h
    exact exec_makeKey_ksValid ht
  · rw [hframe]
    exact ⟨withOutputsOf_ksValid s t hkey hreset, withOutputsOf_ksNonce s t hreset⟩
  · subst h
    exact exec_ksReset_ksValid ht
  · rw [hframe]
    exact withOutputsOf_schedule s t hkey

/-! ### One KS_READ after another (R271) -/

theorem Outputs.err_eq_zero {s t : State} {n : Nat} {byte : Nat → Byte} (h : Outputs s t n byte) : t.err = 0 := by
  obtain ⟨hframe, -, -⟩ := h
  rw [hframe]
  rfl

section
variable {s t : State} {n : Word} (ht : exec .ksRead { s with inLen := n } = .next t)
include ht

/-- KS_READ keeps the keystream it reads from (R274). -/
theorem ksRead_keeps_stream : t.ksValid = s.ksValid ∧ t.ksNonce = s.ksNonce ∧ streamByte t = streamByte s := by
  obtain ⟨-, hstream, -, hschedule⟩ := keystreamLivesUnderOneKey _ _ _ ht
  obtain ⟨hksValid, hnonce⟩ := hstream (by decide) (by decide)
  obtain ⟨hks, hnr, -⟩ := hschedule (by decide)
  exact ⟨hksValid, hnonce, streamByte_congr hks hnr⟩

theorem ksRead_keeps_maxMsg : t.maxMsg = s.maxMsg := by
  obtain ⟨⟨hmax, -⟩, -⟩ := commandsWriteOnlyTheirOutputs _ _ _ ht
  exact hmax

/-- O38 about the one state that a KS_READ of `n` bytes ends in. -/
theorem ksRead_result (hvalid : s.ksValid = true) (hlen : n.toNat ≤ s.maxMsg) :
    t.cursor = (s.cursor + n.toNat) % 2 ^ 68 ∧ t.err = 0
      ∧ ∀ k, k < n.toNat → t.obufByte k = streamByte s s.ksNonce (s.cursor + k) := by
  obtain ⟨-, hread⟩ := ksReadOutputsTheNextBytes
  obtain ⟨-, -, hpass⟩ := hread { s with inLen := n }
  obtain ⟨t', ht', hcursor, hout⟩ := hpass hvalid hlen
  cases ht.symm.trans ht'
  have herr := hout.err_eq_zero
  obtain ⟨-, hbyte, -⟩ := hout
  exact ⟨hcursor, herr, hbyte⟩

end

/-- Settles O40: the second read starts at the place where the first one ends. -/
theorem ksReadSplits : Obligations.KsReadSplits := by
  intro s t u v a b hvalid hroom hword ht hu hv
  have hsum : (a + b).toNat = a.toNat + b.toNat := by rw [BitVec.toNat_add, Nat.mod_eq_of_lt hword]
  obtain ⟨htvalid, htnonce, htstream⟩ := ksRead_keeps_stream ht
  have hroom' : b.toNat ≤ t.maxMsg := by
    rw [ksRead_keeps_maxMsg ht]
    omega
  obtain ⟨htcursor, hterr, htbyte⟩ := ksRead_result ht hvalid (by omega)
  obtain ⟨hucursor, huerr, hubyte⟩ := ksRead_result hu (htvalid.trans hvalid) hroom'
  obtain ⟨hvcursor, hverr, hvbyte⟩ := ksRead_result hv hvalid (hsum.trans_le hroom)
  have hplace : u.cursor = v.cursor := by
    rw [hucursor, htcursor, hvcursor, hsum, Nat.mod_add_mod, Nat.add_assoc]
  obtain ⟨hctr, hidx⟩ := cursor_inj hplace
  refine ⟨fun k hk => ?_, fun k hk => ?_, hctr, hidx, hterr, huerr, hverr⟩
  · rw [htbyte k hk, hvbyte k (by omega)]
  · rw [hubyte k hk, hvbyte (a.toNat + k) (by omega), htstream, htnonce, htcursor, ← streamByte_mod, Nat.mod_add_mod,
      streamByte_mod, Nat.add_assoc]

end Sys2Proof.Machine
end

section
/-! Command start and completion (46_control.md R290 to R293): settles O8, O5, O7 and O9. -/

namespace Sys2Proof.Machine

/-! ### Completion (R291) -/

/-- IRQ_EN is no command's output (30_encoding.md R103). -/
theorem Change.irqEn {s u : State} (c : Change s u) : u.irqEn = s.irqEn := by
  cases c with
  | none | result v | block b | output out hfits | newStream hk n c i | newKey ks nr h | noKey => rfl
  | nextByte v => exact State.advanceCursor_irqEn s
  | streamOutput n out hfits => exact State.advanceBy_irqEn s n

/-- Both ends of a command clear BUSY and set DONE, so IRQ is IRQ_EN (60_exceptions.md R320). -/
theorem Ends.completes {s : State} {r : Result} (h : Ends s r) :
    ∃ t, r = .next t ∧ t.busy = false ∧ t.done = true ∧ t.irq = s.irqEn := by
  cases h with
  | succeed c => exact ⟨_, rfl, rfl, rfl, (Bool.and_true _).trans c.irqEn⟩
  | raise e c => exact ⟨_, rfl, rfl, rfl, (Bool.and_true _).trans c.irqEn⟩

theorem engineMove_of_running {s : State} {w : Word} (hr : s.running = some w) : engineMove s = execute w s := by
  simp only [engineMove, hr]

/-- Settles O8: a command and a command word end in a success or an error, by `exec_ends` and `execute_ends`. -/
theorem everyCommandCompletes : Obligations.EveryCommandCompletes := by
  refine fun s => ⟨fun i => (exec_ends i s).completes, fun w hr hp => ?_⟩
  rw [step_of_pending_nil hp, engineMove_of_running hr]
  exact (execute_ends w s).completes

/-! ### The step that completes a command (R291, R292) -/

/-- The Engine's move on a running word that decodes. -/
theorem engineMove_of_decode {s : State} {w : Word} {i : Instr} (hi : decode w = .ok i) (hr : s.running = some w) :
    engineMove s = exec i s :=
  (engineMove_of_running hr).trans (execute_ok s hi)

theorem step_of_engine_pending {s : State} {w : Word} {i : Instr} {rest : List Event} (hi : decode w = .ok i)
    (hr : s.running = some w) (hp : s.pending = .engine :: rest) : step s = exec i { s with pending := rest } :=
  (step_of_pending_cons hp).trans (engineMove_of_decode hi hr)

/-- All 32 bits of the word are latched (log 5). -/
theorem withFetchWord_toNat (s : State) (w : Word) :
    s.withFetchWord 32 w.toNat = { s with running := some w, done := false, pending := .engine :: s.pending } := by
  rw [State.withFetchWord, Nat.mod_eq_of_lt w.isLt, BitVec.ofNat_toNat, BitVec.setWidth_eq]

/-- Settles O5: after `withFetchWord` the Engine's move is the oldest event, so its clause is an instance of the second. -/
theorem stepRunsTheDecodedCommand : Obligations.StepRunsTheDecodedCommand := by
  intro s w i hi
  refine ⟨fun hr hp => (step_of_pending_nil hp).trans (engineMove_of_decode hi hr), fun _ => step_of_engine_pending hi, ?_⟩
  rw [withFetchWord_toNat]
  exact step_of_engine_pending hi rfl rfl

/-! ### Command start (R290) -/

theorem State.running_of_not_busy {s : State} (h : s.busy = false) : s.running = none :=
  Option.isNone_iff_eq_none.mp (Option.isSome_eq_false_iff.mp h)

/-- Settles O7: offset 0x00C is CMD, and a write to it is `State.start`. -/
theorem cmdWriteStartsACommand : Obligations.CmdWriteStartsACommand := by
  intro s w rest hidle hp
  have hstep : step s = .next (State.start { s with pending := rest } w) := by
    rw [step_write_idle rfl (State.running_of_not_busy hidle) hp, hostWrite_reg _ w (r := .cmd) rfl, writeReg]
  exact ⟨_, hstep, rfl, rfl, State.start_done _ w, Bool.and_false _, State.start_err _ w⟩

/-! ### NOP (R293) -/

/-- Settles O9: NOP is a success with nothing written before it. -/
theorem nopOnlyCompletes : Obligations.NopOnlyCompletes :=
  ⟨plainEncoding_opcode (i := .nop) rfl fun _ => rfl, fun _ => succeed_next.mpr rfl⟩

end Sys2Proof.Machine
end

section
/-! Errors (60_exceptions.md R310 to R313) and the idle Engine (R335): settles O42, O43 and O6. -/

namespace Sys2Proof.Machine

/-! ### The error a command reports (R310, R311) -/

/-- `Reports s r c`: the answer `r` is a success, and `c` is 0, or an error that writes nothing of its own, and `c` is its code. -/
inductive Reports (s : State) : Result → BitVec 4 → Prop where
  | success (u : State) : Reports s (succeed u) 0
  | error (e : Err) : Reports s (raiseError e s) e.code

/-- A check of a command beside the same check of the order of errors. -/
theorem Reports.guard {s : State} {c p : Prop} [Decidable c] [Decidable p] {e : Err} {b : Result} {k : BitVec 4}
    (hcp : c ↔ p) (hb : ¬p → Reports s b k) : Reports s (if c then raiseError e s else b) (if p then e.code else k) := by
  by_cases hp : p
  · rw [if_pos hp, if_pos (hcp.mpr hp)]
    exact .error e
  · rw [if_neg hp, if_neg (hcp.not.mpr hp)]
    exact hb hp

/-- The check of the key or the keystream (R305). -/
theorem Reports.guardValid {valid : Bool} {s : State} {r : Result} {k : BitVec 4} (h : Reports s r k) :
    Reports s (if !valid then raiseError .noKey s else r) (if valid = false then 5 else k) :=
  .guard (iff_of_eq (Bool.not_eq_true' valid)) fun _ => h

/-- The two checks that every mode command and KS_READ begin with. -/
theorem Reports.afterChecks {valid : Bool} {s : State} {r : Result} {k : BitVec 4} (h : Reports s r k) :
    Reports s (afterChecks valid s r) (if valid = false then 5 else if s.maxMsg < s.len then 6 else k) :=
  .guardValid (.guard (overlong_iff s) fun _ => h)

/-- The end of a decryption to the bytes `d`. -/
theorem finishDecrypt_reports (s : State) (d : Nat → Byte) :
    Reports s (finishDecrypt ((List.range s.len).map d) s)
      (if unpadLength ((List.range s.len).map d) = s.len then 4 else 0) := by
  rw [finishDecrypt_eq, List.length_map, List.length_range]
  exact .guard Iff.rfl fun _ => .success _

theorem exec_decEcb_reports (s : State) : Reports s (exec .decEcb s) (firstError .decEcb s) :=
  .afterChecks (.guard (ragged_iff s) fun hwhole =>
    ecbDecryptRaw_message (not_not.mp hwhole) ▸ finishDecrypt_reports s (ecbPlain s))

theorem exec_decCbc_reports (s : State) : Reports s (exec .decCbc s) (firstError .decCbc s) :=
  .afterChecks (.guard (wrongIv_iff s) fun _ => .guard (ragged_iff s) fun hwhole =>
    cbcDecryptRaw_message (not_not.mp hwhole) ▸ finishDecrypt_reports s (cbcPlain s))

/-- Every command but MAKE_KEY, whose failure clears its key, makes the checks of R310 in their order and writes nothing
before one fails (R312). -/
theorem exec_reports {i : Instr} (s : State) (hkey : i ≠ .makeKey) : Reports s (exec i s) (firstError i s) := by
  cases i with
  | makeKey => exact absurd rfl hkey
  | nop | gfMul | xtime | sbox | invSbox => exact .success _
  | subBytes | invSubBytes | shiftRows | invShiftRows | mixColumns | invMixColumns => exact .success _
  | rcon j => exact .guard Iff.rfl fun _ => .success _
  | cipher | invCipher | ksReset | ksNext => exact .guardValid (.success _)
  | addRoundKey r => exact .guardValid (.guard Iff.rfl fun _ => .success _)
  | pad bs =>
    exact .guard Iff.rfl fun _ => .guard (overlong_iff s) fun _ => .guard Iff.rfl fun _ => .success _
  | unpadLen => exact .guard (overlong_iff s) fun _ => .success _
  | encEcb | ctrXform | ksRead => exact .afterChecks (.success _)
  | encCbc => exact .afterChecks (.guard (wrongIv_iff s) fun _ => .success _)
  | decEcb => exact exec_decEcb_reports s
  | decCbc => exact exec_decCbc_reports s

/-- ERR of the next state is the code reported. -/
theorem Reports.err {s t : State} {r : Result} {c : BitVec 4} (h : Reports s r c) (hr : r = .next t) : t.err = c := by
  cases h with
  | success u => rw [succeed_next.mp hr]
  | error e => rw [raiseError_next.mp hr]

/-- The next state with a nonzero ERR has the failure effects alone (R312). -/
theorem Reports.failure {s t : State} {r : Result} {c : BitVec 4} (h : Reports s r c) (hr : r = .next t)
    (herr : t.err ≠ 0) : t = s.failedWith t.err := by
  have hcode := h.err hr
  cases h with
  | success u => exact absurd hcode herr
  | error e =>
    rw [raiseError_next.mp hr]
    rfl

theorem exec_makeKey_err {s t : State} (ht : exec .makeKey s = .next t) : t.err = firstError .makeKey s := by
  by_cases h : keyLengthLegal s.keyLen = true
  · cases ht.symm.trans (exec_makeKey_of_legal h)
    exact (if_pos ((keyLengthLegal_iff _).mp h)).symm
  · cases ht.symm.trans (exec_makeKey_of_not_legal h)
    exact (if_neg ((keyLengthLegal_iff _).not.mp h)).symm

/-- Settles O42: the checks of every command are those of `firstError` in the same order, by `exec_reports`. -/
theorem commandReportsTheFirstError : Obligations.CommandReportsTheFirstError := by
  intro i s t ht
  by_cases hkey : i = .makeKey
  · subst hkey
    exact exec_makeKey_err ht
  · exact (exec_reports s hkey).err ht

/-! ### The effects of a failure (R312, R313) -/

theorem exec_makeKey_failure {s t : State} (ht : exec .makeKey s = .next t) (herr : t.err ≠ 0) :
    t = { s.failedWith 1 with ksValid := false, keyValid := false, nr := 0 } := by
  by_cases h : keyLengthLegal s.keyLen = true
  · cases ht.symm.trans (exec_makeKey_of_legal h)
    exact absurd rfl herr
  · cases ht.symm.trans (exec_makeKey_of_not_legal h)
    rfl

/-- Settles O43: a command but MAKE_KEY raises its error on the state it started from, by `exec_reports`. -/
theorem failuresArePrecise : Obligations.FailuresArePrecise := by
  refine ⟨fun i s t ht herr => ⟨fun hkey => (exec_reports s hkey).failure ht herr, fun hkey => ?_⟩, fun w s e hdecode => ?_⟩
  · subst hkey
    exact exec_makeKey_failure ht herr
  · exact (execute_error s hdecode).trans (raiseError_eq .illegalCommand s)

/-! ### The idle Engine (R335) -/

theorem engineMove_of_idle {s : State} (hidle : s.running = none) : engineMove s = .next s := by
  simp only [engineMove, hidle]

/-- Settles O6: with nothing pending, and when its own event is next, the Engine moves. -/
theorem idleEngineKeepsAllState : Obligations.IdleEngineKeepsAllState := fun _ hidle =>
  ⟨fun hnil => (step_of_pending_nil hnil).trans (engineMove_of_idle hidle),
    fun _ hengine => (step_of_pending_cons hengine).trans (engineMove_of_idle hidle)⟩

end Sys2Proof.Machine
end

section
/-! The resets and the BUSY hazards (70_reset_and_hazards.md R340 to R342, R350, R351): settles O58, O59, O49 and O50. -/

namespace Sys2Proof.Machine

/-! ### Buffers and KS after a draw (10_state.md R49) -/

/-- A buffer nothing was written to since its draw holds the free values of that draw. -/
theorem Memory.read_unwritten (draw a : Nat) : Memory.read { cells := [], draw := draw } a = Config.powerOnByte draw a := rfl

theorem State.scrambleOutputs_block (s : State) (i : Fin 16) :
    s.scrambleOutputs.block[i] = Config.powerOnByte s.draws (0x70 + i.val) :=
  Vector.getElem_ofFn i.isLt

theorem State.scrambleOutputs_ks (s : State) (i : Fin 60) : s.scrambleOutputs.ks[i] = Config.powerOnWord s.draws i.val :=
  Vector.getElem_ofFn i.isLt

theorem State.scrambleOutputs_obufByte (s : State) (k : Nat) :
    s.scrambleOutputs.obufByte k = Config.powerOnByte s.draws (0x20000 + k) :=
  Memory.read_unwritten _ _

theorem State.hardReset_key (s : State) (i : Fin 32) : s.hardReset.key[i] = Config.powerOnByte s.draws (0x40 + i.val) :=
  Vector.getElem_ofFn i.isLt

theorem State.hardReset_iv (s : State) (i : Fin 16) : s.hardReset.iv[i] = Config.powerOnByte s.draws (0x60 + i.val) :=
  Vector.getElem_ofFn i.isLt

theorem State.hardReset_block (s : State) (i : Fin 16) : s.hardReset.block[i] = Config.powerOnByte s.draws (0x70 + i.val) :=
  Vector.getElem_ofFn i.isLt

theorem State.hardReset_ks (s : State) (i : Fin 60) : s.hardReset.ks[i] = Config.powerOnWord s.draws i.val :=
  Vector.getElem_ofFn i.isLt

theorem State.hardReset_ibufByte (s : State) (k : Nat) : s.hardReset.ibufByte k = Config.powerOnByte s.draws (0x10000 + k) :=
  Memory.read_unwritten _ _

theorem State.hardReset_obufByte (s : State) (k : Nat) : s.hardReset.obufByte k = Config.powerOnByte s.draws (0x20000 + k) :=
  Memory.read_unwritten _ _

/-! ### The soft reset (R341, R342) -/

theorem State.softReset_of_busy {s : State} (h : s.busy = true) : s.softReset = s.resetRegisters.scrambleOutputs := if_pos h

theorem State.softReset_of_idle {s : State} (h : s.busy = false) : s.softReset = s.resetRegisters :=
  if_neg (ne_true_of_eq_false h)

/-- Every register takes its reset value, and nothing else changes (R48). -/
theorem State.resetRegisters_eq (s : State) :
    s.resetRegisters = { State.reset with
      maxMsg := s.maxMsg, key := s.key, iv := s.iv, ibuf := s.ibuf, block := s.block, obuf := s.obuf, ks := s.ks
      pending := s.pending, readData := s.readData, draws := s.draws } :=
  rfl

/-- Busy or idle, a soft reset is the reset of the registers, and of the buffers it can reach STATE, OBUF and KS only. -/
theorem State.softReset_eq (s : State) :
    s.softReset = { State.reset with
      maxMsg := s.maxMsg, key := s.key, iv := s.iv, ibuf := s.ibuf
      block := s.softReset.block, obuf := s.softReset.obuf, ks := s.softReset.ks
      pending := s.pending, readData := s.readData, draws := s.softReset.draws } := by
  cases hb : s.busy with
  | false =>
    rw [State.softReset_of_idle hb]
    exact s.resetRegisters_eq
  | true =>
    rw [State.softReset_of_busy hb]
    rfl

theorem State.softReset_irq (s : State) : s.softReset.irq = false := by
  rw [s.softReset_eq]
  rfl

theorem State.softReset_draws_of_busy {s : State} (h : s.busy = true) : s.softReset.draws = s.draws + 1 := by
  rw [State.softReset_of_busy h]
  rfl

/-! ### The step on a write that R350 allows while BUSY = 1 -/

/-- A word write to CTRL or STATUS has its normal effect, busy or not. -/
theorem step_write_writable {s : State} {off : Offset} {v : Word} {rest : List Event} (ha : off.toNat % 4 = 0)
    (hw : writableWhileBusy off = true) (hp : s.pending = .write .word off v :: rest) :
    step s = .next (hostWrite { s with pending := rest } off v) := by
  rw [step_of_pending_cons hp, happen, busWrite_of_legal v _ (legalAccess_word ha), if_neg (by simp [hw])]

theorem step_write_ctrl {s : State} {v : Word} {rest : List Event} (hp : s.pending = .write .word 0x004 v :: rest) :
    step s = .next (writeCtrl { s with pending := rest } v) := by
  rw [step_write_writable rfl rfl hp, hostWrite_reg _ v (r := .ctrl) rfl, writeReg]

theorem step_write_status {s : State} {v : Word} {rest : List Event} (hp : s.pending = .write .word 0x008 v :: rest) :
    step s = .next (writeStatus { s with pending := rest } v) := by
  rw [step_write_writable rfl rfl hp, hostWrite_reg _ v (r := .status) rfl, writeReg]

/-- A CTRL write with SRST = 1 is the soft reset (10_state.md R22). -/
theorem step_write_srst {s : State} {v : Word} {rest : List Event} (hv : v.getLsbD 1 = true)
    (hp : s.pending = .write .word 0x004 v :: rest) : step s = .next (State.softReset { s with pending := rest }) := by
  rw [step_write_ctrl hp, writeCtrl, if_pos hv]

/-- Settles O58: the step is `State.softReset`, which `State.softReset_eq` describes, busy or idle; only STATE, OBUF, KS and the draw
counter depend on BUSY. -/
theorem softResetClearsRegisters : Obligations.SoftResetClearsRegisters := by
  intro s v rest hp hv
  refine ⟨_, step_write_srst hv hp, State.softReset_eq _, State.softReset_irq _, fun hidle => ?_, fun hbusy => ?_⟩
  · rw [State.softReset_of_idle (s := { s with pending := rest }) hidle]
    exact ⟨rfl, rfl, rfl, rfl⟩
  · rw [State.softReset_of_busy (s := { s with pending := rest }) hbusy]
    exact ⟨State.scrambleOutputs_block _, State.scrambleOutputs_obufByte _, State.scrambleOutputs_ks _, rfl⟩

/-! ### The hard reset (R340) -/

/-- Settles O59: the step is `State.hardReset`. -/
theorem hardResetClearsEverything : Obligations.HardResetClearsEverything := by
  intro s rest hp
  exact ⟨_, step_of_pending_cons hp, rfl, rfl, rfl, State.hardReset_key _,
    fun i => ⟨State.hardReset_iv _ i, State.hardReset_block _ i⟩,
    fun k => ⟨State.hardReset_ibufByte _ k, State.hardReset_obufByte _ k⟩, State.hardReset_ks _⟩

/-! ### The BUSY hazards (R350, R351) -/

theorem writableWhileBusy_eq_false {off : Offset} (hctrl : off ≠ 0x004) (hstatus : off ≠ 0x008) :
    writableWhileBusy off = false := by
  rw [writableWhileBusy, beq_false_of_ne hctrl, beq_false_of_ne hstatus, Bool.or_false]

theorem readableWhileBusy_eq_true {off : Offset} (h : off = 0x000 ∨ off = 0x004 ∨ off = 0x008) :
    readableWhileBusy off = true := by
  rcases h with rfl | rfl | rfl <;> rfl

theorem readableWhileBusy_eq_false {off : Offset} (hid : off ≠ 0x000) (hctrl : off ≠ 0x004) (hstatus : off ≠ 0x008) :
    readableWhileBusy off = false := by
  rw [readableWhileBusy, beq_false_of_ne hid, beq_false_of_ne hctrl, beq_false_of_ne hstatus, Bool.or_false, Bool.or_false]

/-- BUSY depends on no field of the model's own. -/
theorem State.busy_pending (s : State) (rest : List Event) : State.busy { s with pending := rest } = s.busy := rfl

/-- A word write to any other offset while BUSY = 1 is a fault. -/
theorem step_write_forbidden {s : State} {off : Offset} {v : Word} {rest : List Event} (hb : s.busy = true)
    (ha : off.toNat % 4 = 0) (hw : writableWhileBusy off = false) (hp : s.pending = .write .word off v :: rest) :
    step s = .fault .hostWriteWhileBusy := by
  rw [step_of_pending_cons hp, happen, busWrite_of_legal v _ (legalAccess_word ha),
    if_pos (by simp [State.busy_pending, hb, hw])]

/-- A word read of any other offset while BUSY = 1 returns a free value. -/
theorem step_read_undefined {s : State} {off : Offset} {rest : List Event} (hb : s.busy = true)
    (ha : off.toNat % 4 = 0) (hr : readableWhileBusy off = false) (hp : s.pending = .read .word off :: rest) :
    step s = .next { s with pending := rest, readData := Config.busyRead s.draws, draws := s.draws + 1 } := by
  rw [step_of_pending_cons hp, happen, busRead, if_neg (by simp [legalAccess_word ha]),
    if_pos (by simp [State.busy_pending, hb, hr])]

/-- Settles O49: CTRL and STATUS are written as when idle, and any other write is `step_write_forbidden`. -/
theorem writesWhileBusy : Obligations.WritesWhileBusy := by
  intro s off v rest hb ha hp
  refine ⟨fun hctrl hstatus => step_write_forbidden hb ha (writableWhileBusy_eq_false hctrl hstatus) hp, ?_, ?_, ?_⟩
  · rintro rfl hv
    rw [step_write_ctrl hp, writeCtrl_of_not_srst _ hv]
  · rintro rfl hv
    refine ⟨_, step_write_srst hv hp, ?_⟩
    have hdraws : (State.softReset { s with pending := rest }).draws = s.draws + 1 := State.softReset_draws_of_busy hb
    rw [← hdraws]
    exact State.softReset_eq _
  · rintro rfl
    rw [step_write_status hp, writeStatus_eq]

/-- Settles O50: the defined reads are `step_read_readable`, which asks nothing of BUSY, and the others `step_read_undefined`. -/
theorem readsWhileBusy : Obligations.ReadsWhileBusy := by
  intro s off rest hb ha hp
  exact ⟨fun hoff => step_read_readable ha (readableWhileBusy_eq_true hoff) hp, fun hid hctrl hstatus =>
    step_read_undefined hb ha (readableWhileBusy_eq_false hid hctrl hstatus) hp⟩

end Sys2Proof.Machine
end
